-- ==== Sys2Proof/Word.lean ====
section
/-!
DEFINITION. The two primitive data of the unit: a bit string (R7, 00_scope.md) and a byte of a
byte buffer (R41, 20_memory.md). Everything computed from them stands in Machine/Operands.lean.
-/

namespace Sys2Proof

/-- A bit string in stream order: the head is the first bit of the stream (R7). -/
abbrev Bits := List Bool

/-- One byte of a byte buffer (R41). -/
abbrev Byte := BitVec 8

end Sys2Proof
end

