-- ==== Sys2Proof/Syntax.lean ====
section
/-!
DEFINITION. The operations of the unit: one constructor per row of spec/opcode_table.json (R84 and
section 5 of 30_encoding.md), and the small enumerations that select among them (the next header
field, the decoder state, the operations that have no opcode bits).
-/

namespace Sys2Proof

/-- The position of a header field in the fixed read order of R64 and R85. `lenSf` is the one field
whose operation depends on `is_eight_short`. -/
inductive HdrStep where
  | sfc | rgg | lenSf | noiseNrg | escPresent | lenEsc | noiseLastpos
  deriving DecidableEq, Repr

/-- The two hard failures of R147, with the codes 3 and 4. -/
inductive AbortCode where
  /-- Code 3, raised by `BAND.BOOKSCL` (R125, R148). -/
  | invalidCodebook
  /-- Code 4, raised by `BAND.SPECTRAL` (R126, R149). -/
  | scaleFactorUnderflow
  deriving DecidableEq, Repr

/-- Decoder state `dec_state` (R26, R130). -/
inductive DecState where
  | normal | concealed
  | aborted (code : AbortCode)
  deriving DecidableEq, Repr

/-- The operations of format SEG, and `FWD_INIT`: the table gives them no opcode bits ("-"), they are
selected by the sequencer or called by another operation. -/
inductive SeqOp where
  | carveSf | carveEsc | release | walkSf | walkEsc | huffSf | fwdInit
  deriving DecidableEq, Repr

/-- The operations of spec/opcode_table.json, in the table's order. The only one with an operand of
its own is `BAND.SPECTRAL`, which eleven codebook values select (R69, R70). -/
inductive Instr where
  | hdrSfc
  | hdrRgg
  | hdrLenSf9
  | hdrLenSf11
  | hdrNoiseNrg
  | hdrEscPresent
  | hdrLenEsc
  | hdrNoiseLastpos
  | carveSf
  | carveEsc
  | release
  | walkSf
  | walkEsc
  | huffSf
  | fwdInit
  | bandConcealed
  | bandZero
  | bandIntensity
  | bandIntensity2
  | bandNoisePcm
  | bandNoiseDpcm
  | bandBookscl
  | bandSpectral (cb : BitVec 4)
  | cmdHdr
  | cmdDec
  deriving DecidableEq, Repr

end Sys2Proof
end

