-- ==== Sys2Proof/Config.lean ====
section
/-!
DEFINITION. The configuration of one instance of the unit: the parameters of R5 (00_scope.md) that
the spec leaves open (92_eei_decisions.md, section 5), as plain data. Their defaults and the two
table sets of the spec stand in Machine/Params.lean. The parameters the source document fixes are
plain definitions there too.
-/

namespace Sys2Proof

/-- One entry `(val, len, cw)` of a table ROM (R71): decoded value, bit length, and the unsigned
value of the codeword's `len` bits, first bit most significant. The hardware widths 8, 5 and 21 are
checked by `Rom.wf`, as decision D36 allows. -/
structure RomEntry where
  val : Int
  len : Nat
  cw  : Nat
  deriving DecidableEq, Repr

/-- A table ROM `T[0..N]` (R31, R71): the `N` entries before the sentinel, then the sentinel
`T[N]` (R73). The sentinel stands apart so that a table cannot lack one. -/
structure Rom where
  entries  : List RomEntry
  sentinel : RomEntry
  deriving DecidableEq, Repr

/-- The configuration function `NOISE_LITERAL` (R5, R68, decision D9): the signed meaning of the raw
9-bit `dpcm_noise_nrg`. It is data and not a function, so that a state can be compared. -/
inductive NoiseLiteral where
  /-- `raw - 256`, the default of R68. -/
  | offsetBinary
  /-- `sext_9(raw)`, the named alternative of R68. -/
  | twosComplement
  /-- Any other configuration function, given by its 512 values. -/
  | tabulated (values : List Int)
  deriving DecidableEq, Repr

/-- The parameter `OVERRUN_POLICY` (R5, R43, decision D11): what a read or carve past the end of a
cursor does. -/
inductive OverrunPolicy where
  /-- The default: `raise Fault(CursorOverrun(c))`. -/
  | fault
  /-- The other policy that D11 names ("zero fill"): the missing bits are zeros and the cursor stops at
  its end. Its details are a DESIGN CHOICE (log entry 4). -/
  | zeroFill
  deriving DecidableEq, Repr

/-- The open parameters of R5. A state carries the configuration its instance was built with, and no
step writes it (R31, R36, R179), so a statement about every state holds for every configuration. -/
structure Config where
  /-- `T_SF`, the primary table ROM. -/
  tSf : Rom
  /-- `T_ESC`, the escape table ROM. -/
  tEsc : Rom
  /-- `ESC_VAL`, the magnitude of the primary value that triggers an escape lookup. -/
  escVal : Nat
  /-- `NOISE_LITERAL`. -/
  noiseLiteral : NoiseLiteral
  /-- `MAX_GROUPS`, the largest `num_window_groups`. -/
  maxGroups : Nat
  /-- `MAX_SFB`, the largest `max_sfb`. -/
  maxSfb : Nat
  /-- `GG_MIN`. No rule rejects a gain below it (decision D6). -/
  ggMin : Int
  /-- `GG_MAX`. No rule rejects a gain above it (decision D6). -/
  ggMax : Int
  /-- `ACC_W`, the width of a baseline and of a `scale_factors` element. -/
  accW : Nat
  /-- `OVERRUN_POLICY`. -/
  overrunPolicy : OverrunPolicy
  deriving DecidableEq, Repr

end Sys2Proof
end

