-- ==== Sys2Proof/WellFormed.lean ====
section
/-!
DEFINITION. Well-formed operations, tables and configurations. The table checks are the constraints
of R72 to R74 (30_encoding.md), one definition each, made once per configuration (R179).
-/

namespace Sys2Proof

/-- The codebook values of class SPECTRAL are 1 to 11 (R69). -/
def Instr.wf : Instr → Bool
  | .bandSpectral cb => decide (1 ≤ cb.toNat ∧ cb.toNat ≤ 11)
  | .hdrSfc | .hdrRgg | .hdrLenSf9 | .hdrLenSf11 | .hdrNoiseNrg | .hdrEscPresent | .hdrLenEsc
  | .hdrNoiseLastpos | .carveSf | .carveEsc | .release | .walkSf | .walkEsc | .huffSf | .fwdInit
  | .bandConcealed | .bandZero | .bandIntensity | .bandIntensity2 | .bandNoisePcm | .bandNoiseDpcm
  | .bandBookscl | .cmdHdr | .cmdDec => true

/-- All entries of a table in index order, the sentinel last. -/
def Rom.all (T : Rom) : List RomEntry := T.entries ++ [T.sentinel]

/-- R72: `len` never decreases, and among entries of equal `len` the codeword strictly increases. -/
def romAscending : List RomEntry → Bool
  | [] => true
  | [_] => true
  | a :: b :: rest =>
    decide (a.len < b.len ∨ (a.len = b.len ∧ a.cw < b.cw)) && romAscending (b :: rest)

/-- R73: the sentinel has value 99 (`NOMATCH`) and the table's declared maximum length. -/
def Rom.sentinelOk (maxLen : Nat) (T : Rom) : Bool :=
  decide (T.sentinel.val = 99 ∧ T.sentinel.len = maxLen)

/-- R74 (a): `N ≥ 1`. -/
def Rom.nonEmpty (T : Rom) : Bool := decide (1 ≤ T.entries.length)

/-- `T[0]`, the entry at which a walk starts. -/
def Rom.first (T : Rom) : RomEntry := T.entries.headD T.sentinel

/-- R74 (b): `1 ≤ T[0].len`. -/
def Rom.positiveFirst (T : Rom) : Bool := decide (1 ≤ T.first.len)

/-- R74 (c): only the sentinel has the maximum length. -/
def Rom.interiorShort (maxLen : Nat) (T : Rom) : Bool := T.entries.all fun e => decide (e.len < maxLen)

/-- R74 (d): a codeword fits its length. -/
def Rom.codewordsFit (T : Rom) : Bool := T.all.all fun e => decide (e.cw < 2 ^ e.len)

/-- R74 (e): the maximum length is at most `READ_MAX`, 32. -/
def Rom.readable (maxLen : Nat) : Bool := decide (maxLen ≤ 32)

/-- R74 (f): a value fits 8 bits, signed. -/
def Rom.valuesFit (T : Rom) : Bool := T.all.all fun e => decide (-128 ≤ e.val ∧ e.val ≤ 127)

/-- R74 (f), escape table: the escape magnitude is not negative. -/
def Rom.nonNegative (T : Rom) : Bool := T.all.all fun e => decide (0 ≤ e.val)

/-- R72 to R74 together, for a table with the declared maximum length `maxLen`. -/
def Rom.wf (maxLen : Nat) (T : Rom) : Bool :=
  romAscending T.all && T.sentinelOk maxLen && T.nonEmpty && T.positiveFirst &&
    T.interiorShort maxLen && T.codewordsFit && Rom.readable maxLen && T.valuesFit

/-- A tabulated `NOISE_LITERAL` has a value for each of the 512 raw literals (R68). -/
def NoiseLiteral.wf : NoiseLiteral → Bool
  | .offsetBinary | .twosComplement => true
  | .tabulated values => decide (values.length = 512)

/-- A configuration the spec admits: both tables well formed with the bounds 10 and 21 of R105, no
negative escape value, and an accumulator of at least one bit. -/
def Config.wf (c : Config) : Bool :=
  c.tSf.wf 10 && c.tEsc.wf 21 && c.tEsc.nonNegative && c.noiseLiteral.wf && decide (1 ≤ c.accW)

end Sys2Proof
end

