-- ==== Sys2Proof/Decode.lean ====
section
/-!
DEFINITION. Decoding and encoding of operations (30_encoding.md). The unit has four formats with
opcode spaces of their own (R63), so a word is decoded in a slot: what the sequencer expects there.
Decoding is total on any bits and rejects by name.
-/

namespace Sys2Proof

/-- What the sequencer expects at the word to be decoded. -/
inductive Slot where
  /-- Format CMD: the one-bit command code (R83). -/
  | command
  /-- Format HDR: the header field that is next (R64); `short` is `is_eight_short`. -/
  | header (f : HdrStep) (short : Bool)
  /-- Format CB: the 4-bit codebook value of a band (R69), with the decoder state and
  `noise_pcm_flag`, which take part in the selection (R118). -/
  | band (d : DecState) (noisePcm : Bool)
  /-- An operation without opcode bits. -/
  | sequenced (op : SeqOp)
  deriving DecidableEq, Repr

/-- Why a word is no operation in its slot. -/
inductive DecodeError where
  /-- The word does not have the number of bits its format gives it. -/
  | wrongWidth (expected : Nat)
  /-- The run has ended: `ABORTED` is terminal and no band is dispatched (R26, R130). -/
  | runEnded
  deriving DecidableEq, Repr

/-- The decoder's answer. -/
inductive Decoded where
  | instr (i : Instr)
  | rejected (e : DecodeError)
  deriving DecidableEq, Repr

/-- The value of a bit string, first bit most significant (R7: `val`). -/
def bitsVal (b : Bits) : Nat := b.foldl (fun a x => 2 * a + x.toNat) 0

/-- The `n` bits of a number, most significant first: the bit string of length `n` and value
`v mod 2^n` (R7). -/
def bitsOf : Nat → Nat → Bits
  | 0, _ => []
  | n + 1, v => v.testBit n :: bitsOf n v

/-- The width of a header field (R64): 11 bits for the length when eight-short, else 9. -/
def HdrStep.width (short : Bool) : HdrStep → Nat
  | .sfc => 1
  | .rgg => 8
  | .lenSf => if short then 11 else 9
  | .noiseNrg => 9
  | .escPresent => 1
  | .lenEsc => 8
  | .noiseLastpos => 9

/-- The operation that reads a header field (R85 to R92). -/
def headerOp (short : Bool) : HdrStep → Instr
  | .sfc => .hdrSfc
  | .rgg => .hdrRgg
  | .lenSf => if short then .hdrLenSf11 else .hdrLenSf9
  | .noiseNrg => .hdrNoiseNrg
  | .escPresent => .hdrEscPresent
  | .lenEsc => .hdrLenEsc
  | .noiseLastpos => .hdrNoiseLastpos

/-- The operation a codebook value selects in state NORMAL (R69, R70, R118). SPECTRAL is the default
class. -/
def codebookOp (noisePcm : Bool) (cb : BitVec 4) : Instr :=
  if cb = 0#4 then .bandZero
  else if cb = 15#4 then .bandIntensity
  else if cb = 14#4 then .bandIntensity2
  else if cb = 13#4 then (if noisePcm then .bandNoisePcm else .bandNoiseDpcm)
  else if cb = 12#4 then .bandBookscl
  else .bandSpectral cb

/-- The command a command bit stands for (R83). -/
def commandOp (w : BitVec 1) : Instr := if w = 0#1 then .cmdHdr else .cmdDec

/-- The operation of a slot without opcode bits. -/
def SeqOp.instr : SeqOp → Instr
  | .carveSf => .carveSf
  | .carveEsc => .carveEsc
  | .release => .release
  | .walkSf => .walkSf
  | .walkEsc => .walkEsc
  | .huffSf => .huffSf
  | .fwdInit => .fwdInit

/-- The number of bits of a word in a slot (the table's widths). -/
def Slot.width : Slot → Nat
  | .command => 1
  | .header f short => f.width short
  | .band _ _ => 4
  | .sequenced _ => 0

/-- The decoder. A header word's bits are data (R81 (c): every pattern is legal); in state CONCEALED
the codebook value is not looked at (R119, decision D16). -/
def decode (sl : Slot) (w : Bits) : Decoded :=
  if w.length = sl.width then
    match sl with
    | .command => .instr (commandOp (BitVec.ofNat 1 (bitsVal w)))
    | .header f short => .instr (headerOp short f)
    | .band .normal noisePcm => .instr (codebookOp noisePcm (BitVec.ofNat 4 (bitsVal w)))
    | .band .concealed _ => .instr .bandConcealed
    | .band (.aborted _) _ => .rejected .runEnded
    | .sequenced op => .instr op.instr
  else .rejected (.wrongWidth sl.width)

/-! ### The encoder -/

/-- The slot in which an operation stands. -/
def Instr.slot : Instr → Slot
  | .hdrSfc => .header .sfc false
  | .hdrRgg => .header .rgg false
  | .hdrLenSf9 => .header .lenSf false
  | .hdrLenSf11 => .header .lenSf true
  | .hdrNoiseNrg => .header .noiseNrg false
  | .hdrEscPresent => .header .escPresent false
  | .hdrLenEsc => .header .lenEsc false
  | .hdrNoiseLastpos => .header .noiseLastpos false
  | .carveSf => .sequenced .carveSf
  | .carveEsc => .sequenced .carveEsc
  | .release => .sequenced .release
  | .walkSf => .sequenced .walkSf
  | .walkEsc => .sequenced .walkEsc
  | .huffSf => .sequenced .huffSf
  | .fwdInit => .sequenced .fwdInit
  | .bandConcealed => .band .concealed true
  | .bandZero => .band .normal true
  | .bandIntensity => .band .normal true
  | .bandIntensity2 => .band .normal true
  | .bandNoisePcm => .band .normal true
  | .bandNoiseDpcm => .band .normal false
  | .bandBookscl => .band .normal true
  | .bandSpectral _ => .band .normal true
  | .cmdHdr => .command
  | .cmdDec => .command

/-- The word of an operation, from the table's "encoding" column. Bits that the table marks as data
(a header field's bits) or as not read (`BAND.CONCEALED`) come out as zeros. -/
def encode : Instr → Bits
  | .hdrSfc => bitsOf 1 0
  | .hdrRgg => bitsOf 8 0
  | .hdrLenSf9 => bitsOf 9 0
  | .hdrLenSf11 => bitsOf 11 0
  | .hdrNoiseNrg => bitsOf 9 0
  | .hdrEscPresent => bitsOf 1 0
  | .hdrLenEsc => bitsOf 8 0
  | .hdrNoiseLastpos => bitsOf 9 0
  | .carveSf => []
  | .carveEsc => []
  | .release => []
  | .walkSf => []
  | .walkEsc => []
  | .huffSf => []
  | .fwdInit => []
  | .bandConcealed => bitsOf 4 0
  | .bandZero => [false, false, false, false]
  | .bandIntensity => [true, true, true, true]
  | .bandIntensity2 => [true, true, true, false]
  | .bandNoisePcm => [true, true, false, true]
  | .bandNoiseDpcm => [true, true, false, true]
  | .bandBookscl => [true, true, false, false]
  | .bandSpectral cb => bitsOf 4 cb.toNat
  | .cmdHdr => [false]
  | .cmdDec => [true]

/-! ### The RVLC header record (format HDR) -/

/-- The fields of one RVLC header, raw, as they stand in the stream (R64). A conditional field counts
only under its condition. -/
structure HeaderFields where
  sfConcealment : Bool
  revGlobalGain : BitVec 8
  /-- The raw length: 9 bits of it are in the stream when not eight-short, 11 when eight-short. -/
  rawLength : BitVec 11
  dpcmNoiseNrg : BitVec 9
  sfEscapesPresent : Bool
  lengthOfRvlcEscapes : BitVec 8
  dpcmNoiseLastPosition : BitVec 9
  deriving DecidableEq, Repr

/-- The header as a bit string: the eight layouts of R65. -/
def encodeHeader (short noise : Bool) (h : HeaderFields) : Bits :=
  [h.sfConcealment] ++ bitsOf 8 h.revGlobalGain.toNat
    ++ bitsOf (if short then 11 else 9) h.rawLength.toNat
    ++ (if noise then bitsOf 9 h.dpcmNoiseNrg.toNat else [])
    ++ [h.sfEscapesPresent]
    ++ (if h.sfEscapesPresent then bitsOf 8 h.lengthOfRvlcEscapes.toNat else [])
    ++ (if noise then bitsOf 9 h.dpcmNoiseLastPosition.toNat else [])

/-! ### The host's question about the table -/

/-- The slot in which a word of the opcode table is read when nothing but its bits is known. The
formats' words overlap (the word 0 is `CMD_HDR`, `BAND.ZERO` and every header field holding zero), so
this is a DESIGN CHOICE (log entry 11): a word below 2 is a command, one below 16 a codebook value in
state NORMAL with `noise_pcm_flag = 1`, any other 8-bit word the 8-bit header field, and a longer word
the length field that holds it. -/
def tableSlot (nbits w : Nat) : Option Slot :=
  if nbits = 1 then (if w < 2 then some .command else none)
  else if nbits = 4 then (if w < 16 then some (.band .normal true) else none)
  else if nbits = 8 then
    (if w < 2 then some .command
     else if w < 16 then some (.band .normal true)
     else if w < 256 then some (.header .rgg false)
     else none)
  else if nbits = 9 ∨ nbits = 11 ∨ nbits = 16 then
    (if w < 512 ∧ nbits ≠ 11 then some (.header .lenSf false)
     else if w < 2048 ∧ nbits ≠ 9 then some (.header .lenSf true)
     else none)
  else none

/-- The operation this decoder reads from a word of the opcode table. -/
def decodeTableWord (nbits w : Nat) : Option Instr :=
  match tableSlot nbits w with
  | none => none
  | some sl =>
    match decode sl (bitsOf sl.width w) with
    | .instr i => some i
    | .rejected _ => none

end Sys2Proof
end

