-- ==== Sys2Proof/Machine/Params.lean ====
section
/-!
DEFINITION. The parameter values of R5 (00_scope.md): those the source document fixes, the defaults
of those it leaves open, and the two table sets of the spec: CAND (93_implementation_defined.md, G7 and
G8) and DEMO (95_test_vectors.md, section 2.1).
-/

namespace Sys2Proof.Machine

/-! ### Parameters the source fixes (R5) -/

/-- `NOMATCH`: the value of a walk that matched no real entry. -/
def noMatch : Int := 99

/-- `MAXLEN_SF`. -/
def maxLenSf : Nat := 10

/-- `MAXLEN_ESC`. -/
def maxLenEsc : Nat := 21

/-- `NOISE_BITS`: the width of `dpcm_noise_nrg` and the amount subtracted from `length_of_rvlc_sf`. -/
def noiseBits : Nat := 9

/-- `NOISE_OFFSET`: subtracted from `global_gain` to form the noise baseline. -/
def noiseOffset : Int := 90

/-- `READ_MAX`: the largest `n` of one `read_bits`. -/
def readMax : Nat := 32

/-- `CODE_OK`. -/
def codeOk : BitVec 8 := 0#8

/-- `CODE_INVALID_CODEBOOK`. -/
def codeInvalidCodebook : BitVec 8 := 3#8

/-- `CODE_SF_UNDERFLOW`. -/
def codeSfUnderflow : BitVec 8 := 4#8

/-! ### Table sets -/

/-- A table with its sentinel (R73): value 99, the given maximum length, codeword 0. -/
def romOf (maxLen : Nat) (entries : List RomEntry) : Rom := ⟨entries, ⟨noMatch, maxLen, 0⟩⟩

/-- Set CAND, `T_SF` (G7): the candidate image, from general knowledge. PRESUMED (log entry 5). -/
def candSf : Rom := romOf maxLenSf
  [⟨0, 1, 0⟩, ⟨-1, 3, 5⟩, ⟨1, 3, 7⟩, ⟨-2, 4, 9⟩, ⟨-3, 5, 17⟩, ⟨2, 5, 27⟩,
   ⟨-4, 6, 33⟩, ⟨99, 6, 50⟩, ⟨3, 6, 51⟩, ⟨99, 6, 52⟩, ⟨-7, 7, 65⟩, ⟨99, 7, 96⟩,
   ⟨99, 7, 98⟩, ⟨7, 7, 99⟩, ⟨4, 7, 107⟩, ⟨-5, 8, 129⟩, ⟨99, 8, 194⟩, ⟨5, 8, 195⟩,
   ⟨99, 8, 212⟩, ⟨99, 9, 256⟩, ⟨-6, 9, 257⟩, ⟨99, 9, 426⟩, ⟨6, 9, 427⟩]

/-- The first 27 entries of `T_ESC` in G8. -/
def candEscShort : List RomEntry :=
  [⟨1, 2, 0⟩, ⟨0, 2, 2⟩, ⟨3, 3, 2⟩, ⟨2, 3, 6⟩, ⟨4, 4, 14⟩, ⟨7, 5, 13⟩,
   ⟨6, 5, 15⟩, ⟨5, 5, 31⟩, ⟨11, 6, 24⟩, ⟨10, 6, 25⟩, ⟨9, 6, 29⟩, ⟨8, 6, 61⟩,
   ⟨13, 7, 56⟩, ⟨12, 7, 120⟩, ⟨15, 8, 114⟩, ⟨14, 8, 242⟩, ⟨17, 9, 230⟩, ⟨16, 9, 486⟩,
   ⟨19, 10, 463⟩, ⟨18, 10, 974⟩, ⟨22, 11, 925⟩, ⟨20, 11, 1950⟩, ⟨21, 11, 1951⟩, ⟨23, 12, 1848⟩,
   ⟨25, 13, 3698⟩, ⟨24, 14, 7399⟩, ⟨26, 15, 14797⟩]

/-- Entries of one length with values and codewords that count up together. -/
def countUp (n : Nat) (val : Int) (len cw : Nat) : List RomEntry :=
  (List.range n).map fun k : Nat => ⟨val + k, len, cw + k⟩

/-- Set CAND, `T_ESC` (G8): the candidate image, from general knowledge. PRESUMED (log entry 5). -/
def candEsc : Rom :=
  romOf maxLenEsc (candEscShort ++ countUp 5 49 19 236736 ++ countUp 22 27 20 473482)

/-- Set DEMO, `DEMO_P`: the spec's own table for its test vectors. -/
def demoSf : Rom := romOf maxLenSf
  [⟨0, 1, 0⟩, ⟨-1, 3, 4⟩, ⟨1, 3, 5⟩, ⟨2, 4, 12⟩, ⟨-2, 4, 13⟩, ⟨99, 5, 28⟩, ⟨3, 5, 29⟩]

/-- Set DEMO, `DEMO_E`. -/
def demoEsc : Rom := romOf maxLenEsc [⟨0, 1, 0⟩, ⟨1, 2, 2⟩, ⟨2, 3, 6⟩]

/-! ### Configurations -/

/-- The defaults of R5 and of 92_eei_decisions.md section 5, with set CAND. PRESUMED (log entry 5). -/
def defaultConfig : Config :=
  { tSf := candSf, tEsc := candEsc, escVal := 7, noiseLiteral := .offsetBinary
    maxGroups := 8, maxSfb := 51, ggMin := 0, ggMax := 255, accW := 16, overrunPolicy := .fault }

/-- The same with set DEMO, `ESC_VAL = 2` (95_test_vectors.md section 2.1). -/
def demoConfig : Config := { defaultConfig with tSf := demoSf, tEsc := demoEsc, escVal := 2 }

end Sys2Proof.Machine
end

