-- ==== Sys2Proof/Machine/State.lean ====
section
/-!
DEFINITION. The state of the unit (10_state.md), its reset value (R34), and the reasons a command can
be stopped. `undef` of R14 is an absent value (`none`), as R14 orders. Four fields are the model's own
and no register of the spec: `cfg` (the parameters), `host` (what the host is about to do), `walkValue`
(the value a walk returned) and `huffValue` (the value `HUFF_SF` returned).
-/

namespace Sys2Proof.Machine

/-- A bit cursor `{buf, len, pos}` (R39). `len` is the length of the bit string `buf`. -/
structure Cursor where
  buf : Bits
  pos : Nat
  deriving DecidableEq, Repr

/-- The length in bits of a cursor's buffer (R39). -/
def Cursor.len (c : Cursor) : Nat := c.buf.length

/-- The cursor that a sub-cursor with `valid = 0` reads as (R50). -/
def Cursor.empty : Cursor := ⟨[], 0⟩

/-- The three cursors, as overruns name them (R154). -/
inductive CursorId where
  | main | sf | esc
  deriving DecidableEq, Repr

/-- The two sub-cursors (R20). -/
inductive SubId where
  | sf | esc
  deriving DecidableEq, Repr

/-- A sub-cursor's name as a cursor. -/
def SubId.cursorId : SubId → CursorId
  | .sf => .sf
  | .esc => .esc

/-- The locations whose absent value a rule can meet (R14), as `UnwrittenRead` names them. -/
inductive RegName where
  | isEightShort | noiseUsed | numWindowGroups | maxSfb | globalGain
  | sfbCb (g sfb : Nat)
  | main
  | lengthOfRvlcSf | dpcmNoiseNrg | sfEscapesPresent | lengthOfRvlcEscapes
  | pc | scaleFactor | isPosition | noiseEnergy | noisePcmFlag | decState
  deriving DecidableEq, Repr

/-- The reasons of `raise Fault` (R155). The mark `fault` holds one; a step of a marked state with no
`CMD_DEC` in progress stops with it. All are safe: the spec leaves the behaviour undefined, and nothing
is claimed of a faulted command. -/
inductive Fault where
  /-- A read or carve past the end of a cursor under the default `OVERRUN_POLICY` (R43, R154). Raised by
  the header operations, the carves and the walks. Safe. -/
  | cursorOverrun (c : CursorId)
  /-- A read of a location that holds `undef` (R14, R155). Raised by every operation that reads a
  register, an input or a `sfb_cb` element. Safe. -/
  | unwrittenRead (name : RegName)
  deriving DecidableEq, Repr

/-- The reasons of `refuse` (R156), two refusals of the host port, and the one for an operation without
a meaning. The mark `refused` holds one; a step of a marked state with no `CMD_DEC` in progress stops
with it. All are safe: the model gives the situation no meaning. -/
inductive Refusal where
  /-- An operation without a meaning; only an arm of `exec` answers so, and none does now. Safe. -/
  | notModelled (mnemonic : String)
  /-- `HDR.NOISE_NRG` with a raw length below 9 (R89). Safe. -/
  | lenSfUnderflow
  /-- `FWD_INIT` with `num_window_groups > MAX_GROUPS` or `max_sfb > MAX_SFB` (R117), and a band
  operation whose band pointer lies outside the table memory, which no run reaches (log entry 8). Safe. -/
  | indexRange
  /-- A band operation whose new baseline does not fit `ACC_W` bits (R132). Safe. -/
  | accOverflow
  /-- A command issued in a phase other than `IDLE` (R142). Safe. -/
  | commandWhileBusy
  /-- `CMD_DEC` before any `CMD_HDR` has completed (R142). Safe. -/
  | decodeBeforeHeader
  /-- The host port: `H_LOAD` of a `sfb_cb` element that does not exist (R17, R137; log entry 9). Safe. -/
  | noSuchElement
  /-- The host port: `H_BIND` of a position or length past the end of the buffer (R138; log entry 9).
  Safe. -/
  | bindOutOfRange
  deriving DecidableEq, Repr

/-- The two operations of a `CARVE` phase. -/
inductive CarveStep where
  | sf | esc
  deriving DecidableEq, Repr

/-- What a `DECODE` phase does next: `FWD_INIT`, or the band at the band pointer. -/
inductive DecodeStep where
  | init | band
  deriving DecidableEq, Repr

/-- Sequencer phase `phase`, one of `IDLE`, `HDR`, `CARVE`, `DECODE`, `RELEASE` (R27). The argument is
the operation the phase stands at, for the micro-operation granularity of R145. -/
inductive Phase where
  | idle
  | hdr (next : HdrStep)
  | carve (next : CarveStep)
  | decode (next : DecodeStep)
  | release
  deriving DecidableEq, Repr

/-- A `CMD_DEC` is in progress. -/
def Phase.inDec : Phase → Bool
  | .carve _ | .decode _ | .release => true
  | .idle | .hdr _ => false

/-- Band pointer `pc = (g, sfb)` (R21). The indexes count and never wrap; 4 and 6 bits hold them,
because `g ≤ num_window_groups` and `sfb < max_sfb`. -/
structure BandPtr where
  g : Nat
  sfb : Nat
  deriving DecidableEq, Repr

/-- The walker registers (R24). They hold nothing between walks. -/
structure Walker where
  /-- Index of the current table entry. -/
  k : Option Nat
  /-- Running length. -/
  i : Option Nat
  /-- Running codeword. -/
  cw : Option Nat
  /-- Incremental bits of one step. -/
  j : Option Nat
  deriving DecidableEq, Repr

/-- No walker register holds a value. -/
def Walker.undef : Walker := ⟨none, none, none, none⟩

/-- A table memory (R51): the elements that hold a value, by index pair `(g, sfb)` in strictly rising
order. An element that is not listed is `undef` (R14). -/
abbrev Cells (α : Type) := List ((Nat × Nat) × α)

/-- The two table memories of R51. The three bit spaces are the buffers of the cursors. -/
structure Memory where
  /-- `sfb_cb`, the Codebook Assignment Table (R17). -/
  sfbCb : Cells (BitVec 4)
  /-- `scale_factors`, the Scale Factor Table (R30). -/
  scaleFactors : Cells Int
  deriving DecidableEq, Repr

/-- How the host issues a command (R136, R142, R145). -/
inductive Issue where
  /-- When the unit is idle, as one atomic transition. -/
  | whole
  /-- When the unit is idle, as a sequence of micro-operations. -/
  | stepped
  /-- At once, whatever the phase. -/
  | unguarded
  deriving DecidableEq, Repr

/-- What the host can do to the unit (R137, R138, R83). `H_READ` changes nothing and is the function
`hostRead`. -/
inductive HostOp where
  | loadIsEightShort (v : Bool)
  | loadNoiseUsed (v : Bool)
  | loadNumWindowGroups (v : BitVec 4)
  | loadMaxSfb (v : BitVec 6)
  | loadGlobalGain (v : Int)
  | loadSfbCb (g sfb : Nat) (v : BitVec 4)
  /-- `H_BIND` of a bit string. -/
  | bind (buf : Bits) (pos : Nat)
  /-- `H_BIND` of the first `len` bits of a byte buffer, in the bit order of R41. -/
  | bindBytes (bytes : List Byte) (len pos : Nat)
  /-- A command bit (R83). -/
  | command (w : BitVec 1) (how : Issue)
  deriving DecidableEq, Repr

/-- The state (R16 to R30). -/
structure State where
  /-- The parameters of the instance (R5, R31, R36). The model's own field: no step writes it. -/
  cfg : Config
  /-- What the host does next, first first. The model's own field: the host's acts are an input. -/
  host : List HostOp
  -- main cursor (R16)
  main : Option Cursor
  -- context inputs (R17); `sfb_cb` is in `mem`
  isEightShort : Option Bool
  noiseUsed : Option Bool
  numWindowGroups : Option (BitVec 4)
  maxSfb : Option (BitVec 6)
  globalGain : Option Int
  -- header registers (R18, R19)
  sfConcealment : Option Bool
  revGlobalGain : Option (BitVec 8)
  lengthOfRvlcSf : Option (BitVec 11)
  dpcmNoiseNrg : Option (BitVec 9)
  sfEscapesPresent : Option Bool
  lengthOfRvlcEscapes : Option (BitVec 8)
  dpcmNoiseLastPosition : Option (BitVec 9)
  /-- Sub-cursor `sf` (R20): `none` is `valid = 0`, whose `buf`, `len` and `pos` are `undef`. -/
  sf : Option Cursor
  /-- Sub-cursor `esc` (R20). -/
  esc : Option Cursor
  -- decoder registers (R21 to R26)
  pc : Option BandPtr
  scaleFactor : Option Int
  isPosition : Option Int
  noiseEnergy : Option Int
  t : Option Int
  walker : Walker
  /-- The value the last completed walk returned. The model's own field: R106 returns it to the caller. -/
  walkValue : Option Int
  /-- The value the last completed `HUFF_SF` returned. The model's own field: R110 returns it to the caller. -/
  huffValue : Option Int
  noisePcmFlag : Option Bool
  decState : Option DecState
  -- sequencer (R27, R28)
  phase : Phase
  hdrDone : Bool
  result : Option (BitVec 8)
  -- marks (R29)
  fault : Option Fault
  refused : Option Refusal
  -- table memories (R17, R30)
  mem : Memory
  deriving DecidableEq, Repr

/-- An outcome of this machine. -/
abbrev Outcome := Host.Outcome State Fault Refusal

/-- The power-on reset state of an instance with configuration `c` (R34, R167). -/
def State.resetWith (c : Config) : State where
  cfg := c
  host := []
  main := none
  isEightShort := none
  noiseUsed := none
  numWindowGroups := none
  maxSfb := none
  globalGain := none
  sfConcealment := none
  revGlobalGain := none
  lengthOfRvlcSf := none
  dpcmNoiseNrg := none
  sfEscapesPresent := none
  lengthOfRvlcEscapes := none
  dpcmNoiseLastPosition := none
  sf := none
  esc := none
  pc := none
  scaleFactor := none
  isPosition := none
  noiseEnergy := none
  t := none
  walker := Walker.undef
  walkValue := none
  huffValue := none
  noisePcmFlag := none
  decState := none
  phase := .idle
  hdrDone := false
  result := none
  fault := none
  refused := none
  mem := ⟨[], []⟩

/-- The machine right after reset: R34 with the default configuration (log entry 5). -/
def State.reset : State := State.resetWith defaultConfig

end Sys2Proof.Machine
end

