-- ==== Sys2Proof/Machine/Operands.lean ====
section
/-!
DEFINITION. The operand forms of the unit: bit fields of a bit space and the byte view of a buffer
(20_memory.md), reads and carves of a cursor, elements of a table memory, and the signed noise literal.
-/

namespace Sys2Proof.Machine

/-! ### Bit spaces -/

/-- `MemRead(buf, a, n)` (R40): the unsigned value of `n` bits from bit address `a`. -/
def memRead (buf : Bits) (a n : Nat) : Nat := bitsVal ((buf.drop a).take n)

/-- Bit address `k` of a byte buffer: bit `7 - (k mod 8)` of byte `k / 8` (R41). -/
def bitOfBytes (bytes : List Byte) (k : Nat) : Bool := (bytes.getD (k / 8) 0#8).getLsbD (7 - k % 8)

/-- The first `len` bits of a byte buffer (R41). -/
def bitsOfBytes (bytes : List Byte) (len : Nat) : Bits := (List.range len).map (bitOfBytes bytes)

/-- The byte buffer of `⌈len / 8⌉` bytes that holds a bit string (R41, R49). Its padding bits are
written as zeros here; no cursor reads them. -/
def bytesOfBits (b : Bits) : List Byte :=
  (List.range ((b.length + 7) / 8)).map fun q =>
    BitVec.ofNat 8 (bitsVal ((List.range 8).map fun r => b.getD (8 * q + r) false))

/-! ### Cursors -/

/-- `ReadBits(c, n)` (R42, R43, R45): the value read and the advanced cursor, or none on an overrun
under the default policy. A read of zero bits never overruns. -/
def Cursor.read (p : OverrunPolicy) (c : Cursor) (n : Nat) : Option (Nat × Cursor) :=
  if n = 0 ∨ c.pos + n ≤ c.len then some (memRead c.buf c.pos n, { c with pos := c.pos + n })
  else match p with
    | .fault => none
    | .zeroFill =>
      some (bitsVal ((c.buf.drop c.pos).take n ++ List.replicate (n - (c.len - c.pos)) false),
        { c with pos := c.len })

/-- `Carve(c, L)` (R46): the new cursor over a copy of the next `L` bits, and the advanced source. -/
def Cursor.carve (p : OverrunPolicy) (c : Cursor) (L : Nat) : Option (Cursor × Cursor) :=
  if c.pos + L ≤ c.len then some (⟨(c.buf.drop c.pos).take L, 0⟩, { c with pos := c.pos + L })
  else match p with
    | .fault => none
    | .zeroFill =>
      some (⟨(c.buf.drop c.pos).take L ++ List.replicate (L - (c.len - c.pos)) false, 0⟩,
        { c with pos := c.len })

/-- A cursor's position lies in its buffer (R39: `0 ≤ pos ≤ len`). -/
def Cursor.wf (c : Cursor) : Bool := decide (c.pos ≤ c.len)

/-- The sub-cursor of a name. -/
def State.sub (s : State) : SubId → Option Cursor
  | .sf => s.sf
  | .esc => s.esc

/-- What a sub-cursor reads as: with `valid = 0`, a cursor of length 0 (R50). -/
def State.subCursor (s : State) (x : SubId) : Cursor := (s.sub x).getD Cursor.empty

/-- Moves a sub-cursor that is held; one that is not held stays absent. -/
def State.moveSub (s : State) (x : SubId) (c : Cursor) : State :=
  match x with
  | .sf => { s with sf := s.sf.map fun _ => c }
  | .esc => { s with esc := s.esc.map fun _ => c }

/-- The table of a sub-cursor (R105): `WALK(sf, T_SF)` and `WALK(esc, T_ESC)`, no other pairing. -/
def romOfSub (c : Config) : SubId → Rom
  | .sf => c.tSf
  | .esc => c.tEsc

/-! ### Table memories -/

/-- The order of table indexes: group-major, band-minor. -/
def keyLt (a b : Nat × Nat) : Bool := decide (a.1 < b.1 ∨ (a.1 = b.1 ∧ a.2 < b.2))

/-- Read of one element (R52); an element that is not listed holds `undef`. -/
def cellRead {α : Type} (g sfb : Nat) : Cells α → Option α
  | [] => none
  | (k, v) :: rest => if k = (g, sfb) then some v else cellRead g sfb rest

/-- Write of one element (R53). -/
def cellWrite {α : Type} (g sfb : Nat) (v : α) : Cells α → Cells α
  | [] => [((g, sfb), v)]
  | (k, w) :: rest =>
    if keyLt (g, sfb) k then ((g, sfb), v) :: (k, w) :: rest
    else if k = (g, sfb) then ((g, sfb), v) :: rest
    else (k, w) :: cellWrite g sfb v rest

/-- The canonical form of a table memory: indexes strictly rise. No entry can equal what an unlisted
element reads as, because that is `undef` and an entry is a value. -/
def cellsWf {α : Type} : Cells α → Bool
  | [] => true
  | [_] => true
  | a :: b :: rest => keyLt a.1 b.1 && cellsWf (b :: rest)

/-- Both table memories are in canonical form. -/
def Memory.wf (m : Memory) : Bool := cellsWf m.sfbCb && cellsWf m.scaleFactors

/-- An element `(g, sfb)` exists in a table memory of `MAX_GROUPS` x `MAX_SFB` elements (R51). -/
def elementExists (c : Config) (g sfb : Nat) : Bool := decide (g < c.maxGroups ∧ sfb < c.maxSfb)

/-! ### Signed literals -/

/-- `sext_N(v)` (R8). -/
def sext (n v : Nat) : Int := (BitVec.ofNat n v).toInt

/-- `NOISE_LITERAL(raw)` (R68). -/
def noiseLiteralOf (f : NoiseLiteral) (raw : BitVec 9) : Int :=
  match f with
  | .offsetBinary => (raw.toNat : Int) - 256
  | .twosComplement => sext 9 raw.toNat
  | .tabulated values => values.getD raw.toNat 0

end Sys2Proof.Machine
end

