-- ==== Sys2Proof/Machine/Flags.lean ====
section
/-!
DEFINITION. The conditions the operations test and the marks and flags they set: no-match, escape
marker, accumulator range, sign, and whether the state carries a mark.
-/

namespace Sys2Proof.Machine

/-- The value 99 always means concealment (R111, R127). -/
def isNomatch (t : Int) : Bool := decide (t = noMatch)

/-- The value of a primary walk is the escape marker `+ESC_VAL` (R110). -/
def isPosMarker (c : Config) (v : Int) : Bool := decide (v = (c.escVal : Int))

/-- The value of a primary walk is the escape marker `-ESC_VAL` (R110). -/
def isNegMarker (c : Config) (v : Int) : Bool := decide (v = -(c.escVal : Int))

/-- A value fits `ACC_W` bits, two's complement (R132). -/
def accFits (c : Config) (v : Int) : Bool :=
  decide (-(2 ^ (c.accW - 1)) ≤ v ∧ v ≤ 2 ^ (c.accW - 1) - 1)

/-- The one sign test of the unit (R131): `scale_factor < 0`. -/
def underflows (v : Int) : Bool := decide (v < 0)

/-- The result code of a hard failure (R28, R147). -/
def abortResult : AbortCode → BitVec 8
  | .invalidCodebook => codeInvalidCodebook
  | .scaleFactorUnderflow => codeSfUnderflow

/-- The decoder state is `ABORTED(code)` for some code (R26). -/
def State.aborted (s : State) : Bool :=
  match s.decState with
  | some (.aborted _) => true
  | _ => false

/-- `fault` or `refused` is set (R29). -/
def State.marked (s : State) : Bool := s.fault.isSome || s.refused.isSome

/-- The whole state is final (R146): the phase is `IDLE` and neither mark is set. -/
def State.final (s : State) : Bool := decide (s.phase = .idle) && !s.marked

end Sys2Proof.Machine
end

