-- ==== Sys2Proof/Machine/Ops.lean ====
section
/-!
DEFINITION. The operations shared by the meanings: how an operation ends, the three exception entries
(`raise Fault`, `refuse`, `raise Abort`) and the return to `IDLE`, reads of registers and of the main
cursor, and writes of `scale_factors` elements.
-/

namespace Sys2Proof.Machine

/-! ### Taking an exception, and the return from one -/

/-- `raise Fault(reason)` (R155): the mark is set. The operation in progress stops, which is the
caller's `Micro.ended`, and a `CMD_DEC` in progress still runs `RELEASE`. -/
def State.raiseFault (s : State) (r : Fault) : State := { s with fault := some r }

/-- `refuse(reason)` (R156): the mark is set and the operation stops. -/
def State.refuse (s : State) (r : Refusal) : State := { s with refused := some r }

/-- `raise Abort(code)` (R152): `dec_state` and `result` are written, `pc` is not advanced, and the
command goes on at `RELEASE`. -/
def State.abort (s : State) (c : AbortCode) : State :=
  { s with decState := some (.aborted c), result := some (abortResult c) }

/-- `RELEASE` (R101): both sub-cursors are disposed of. -/
def State.dispose (s : State) : State := { s with sf := none, esc := none }

/-- The way out of a `CMD_DEC`, on every exit path (R101, R140, R152): `RELEASE`, then `IDLE`. There is
no other return from a failure (R158). DESIGN CHOICE: after an abort the baselines and `pc`, which R152
calls lost, hold what they held (log entry 23). -/
def State.leaveDec (s : State) : State := { s.dispose with phase := .idle }

/-! ### How an operation ends -/

/-- The end of an operation: with a value, or ended early by `raise` or `refuse` (R10). -/
inductive Micro (α : Type) where
  | done (a : α) (s : State)
  | ended (s : State)
  deriving DecidableEq, Repr

/-- Sequencing (R10): nothing after a `raise` or `refuse` runs. -/
def Micro.andThen {α β : Type} (m : Micro α) (f : α → State → Micro β) : Micro β :=
  match m with
  | .done a s => f a s
  | .ended s => .ended s

/-- The state in which an operation leaves the unit, however it ends. -/
def Micro.state {α : Type} : Micro α → State
  | .done _ s => s
  | .ended s => s

/-- An operation as a step: every end is a next state, because R152, R155 and R156 say what the
state then is. -/
def Micro.outcome {α : Type} (m : Micro α) : Outcome := .next m.state

/-! ### Reads -/

/-- A read of a location (R14): its value, or `raise Fault(UnwrittenRead(name))`. -/
def need {α : Type} (r : Option α) (name : RegName) (s : State) : Micro α :=
  match r with
  | some a => .done a s
  | none => .ended (s.raiseFault (.unwrittenRead name))

/-- `ReadBits(main, n)` (R42). -/
def readMain (n : Nat) (s : State) : Micro Nat :=
  (need s.main .main s).andThen fun c s =>
    match c.read s.cfg.overrunPolicy n with
    | some (v, c') => .done v { s with main := some c' }
    | none => .ended (s.raiseFault (.cursorOverrun .main))

/-- `ReadBit(main)` (R44). -/
def readMainBit (s : State) : Micro Bool :=
  (readMain 1 s).andThen fun v s => .done (decide (v = 1)) s

/-- `Carve(main, L)` (R46). -/
def carveMain (L : Nat) (s : State) : Micro Cursor :=
  (need s.main .main s).andThen fun c s =>
    match c.carve s.cfg.overrunPolicy L with
    | some (new, c') => .done new { s with main := some c' }
    | none => .ended (s.raiseFault (.cursorOverrun .main))

/-- The codebook element of a band (R52). -/
def readCodebook (p : BandPtr) (s : State) : Micro (BitVec 4) :=
  need (cellRead p.g p.sfb s.mem.sfbCb) (.sfbCb p.g p.sfb) s

/-! ### Writes of the output table -/

/-- `scale_factors[g][sfb] <- v` at the band pointer (R53). An element that does not exist is refused
(log entry 8). -/
def writeElement (v : Int) (s : State) : Micro Unit :=
  (need s.pc .pc s).andThen fun p s =>
    if elementExists s.cfg p.g p.sfb then
      .done () { s with mem := { s.mem with scaleFactors := cellWrite p.g p.sfb v s.mem.scaleFactors } }
    else .ended (s.refuse .indexRange)

/-- `CONCEAL` (R127): the band's element gets 0 and the decoder state becomes CONCEALED. -/
def conceal (s : State) : Micro Unit :=
  (writeElement 0 s).andThen fun _ s => .done () { s with decState := some .concealed }

/-- A new baseline (R132): refused when it does not fit `ACC_W` bits. -/
def newBaseline (v : Int) (s : State) : Micro Int :=
  if accFits s.cfg v then .done v s else .ended (s.refuse .accOverflow)

end Sys2Proof.Machine
end

