-- ==== Sys2Proof/Machine/Carver.lean ====
section
/-!
DEFINITION. The Segment Carver (41_segment_carver.md): `CARVE.SF`, `CARVE.ESC` and `RELEASE`.
-/

namespace Sys2Proof.Machine

/-- `CARVE.SF` (R97): a cursor is carved exactly when the length is above 0. -/
def carveSf (s : State) : Micro Unit :=
  (need s.lengthOfRvlcSf .lengthOfRvlcSf s).andThen fun len s =>
    if 0 < len.toNat then
      (carveMain len.toNat s).andThen fun new s => .done () { s with sf := some new }
    else .done () { s with sf := none }

/-- `CARVE.ESC` (R98): the condition is `sf_escapes_present`, not the length. -/
def carveEsc (s : State) : Micro Unit :=
  (need s.sfEscapesPresent .sfEscapesPresent s).andThen fun present s =>
    if present then
      (need s.lengthOfRvlcEscapes .lengthOfRvlcEscapes s).andThen fun len s =>
      (carveMain len.toNat s).andThen fun new s => .done () { s with esc := some new }
    else .done () { s with esc := none }

/-- `RELEASE` (R101). -/
def release (s : State) : Micro Unit := .done () s.dispose

/-- `CARVE.SF` (R97). -/
def execCarveSf (s : State) : Outcome := (carveSf s).outcome

/-- `CARVE.ESC` (R98). -/
def execCarveEsc (s : State) : Outcome := (carveEsc s).outcome

/-- `RELEASE` (R101). -/
def execRelease (s : State) : Outcome := (release s).outcome

end Sys2Proof.Machine
end

