-- ==== Sys2Proof/Machine/Walker.lean ====
section
/-!
DEFINITION. The Canonical Huffman Table Walker (42_huffman_walker.md): `WALK.SF`, `WALK.ESC` and
`HUFF_SF`.
-/

namespace Sys2Proof.Machine

/-- What a walk gives: a value, with the index at which it stopped, or an overrun, with the walker
registers at that moment (R24). Both come with the cursor as the reads left it. -/
inductive WalkResult where
  | value (v : Int) (k : Nat) (c : Cursor)
  | overrun (w : Walker) (c : Cursor)
  deriving DecidableEq, Repr

/-- The loop of R106 at entry `e = T[k]`; the list holds the entries after it, the sentinel last. The
walk also stops at the end of the table, which a well-formed table never reaches otherwise (R107). -/
def walkLoop (p : OverrunPolicy) (maxLen : Nat) (e : RomEntry) (k i cw : Nat) (c : Cursor) :
    List RomEntry → WalkResult
  | [] => .value e.val k c
  | e' :: rest =>
    if cw = e.cw then .value e.val k c
    else if i = maxLen then .value e.val k c
    else
      let j := e'.len - i
      match c.read p j with
      | none => .overrun ⟨some (k + 1), some i, some cw, some j⟩ c
      | some (v, c') => walkLoop p maxLen e' (k + 1) (i + j) (cw <<< j ||| v) c' rest

/-- `WALK(c, T)` (R106), a function of the cursor and the table (R104). -/
def walkTable (p : OverrunPolicy) (T : Rom) (c : Cursor) : WalkResult :=
  match c.read p T.first.len with
  | none => .overrun ⟨some 0, some T.first.len, none, none⟩ c
  | some (cw, c') => walkLoop p T.sentinel.len T.first 0 T.first.len cw c' T.all.tail

/-- `WALK` on a sub-cursor and its table (R105): the cursor advances, the walker registers are dropped
(R24), and the value is returned. -/
def walk (x : SubId) (s : State) : Micro Int :=
  match walkTable s.cfg.overrunPolicy (romOfSub s.cfg x) (s.subCursor x) with
  | .value v _ c => .done v { s.moveSub x c with walker := Walker.undef, walkValue := some v }
  | .overrun w c => .ended ({ s.moveSub x c with walker := w }.raiseFault (.cursorOverrun x.cursorId))

/-- The return of `HUFF_SF` to its caller (R110). It writes no register of the spec (R37): the delta
register `t` is its caller's to write. The value is kept beside them (log entry 20). -/
def returnDelta (d : Int) (s : State) : Micro Int := .done d { s with huffValue := some d }

/-- `HUFF_SF` (R110). -/
def huffSf (s : State) : Micro Int :=
  (walk .sf s).andThen fun v s =>
    if isPosMarker s.cfg v then
      (walk .esc s).andThen fun e s =>
        if isNomatch e then returnDelta noMatch s else returnDelta (v + e) s
    else if isNegMarker s.cfg v then
      (walk .esc s).andThen fun e s =>
        if isNomatch e then returnDelta noMatch s else returnDelta (v - e) s
    else returnDelta v s

/-- `WALK.SF` (R105, R106). -/
def execWalkSf (s : State) : Outcome := (walk .sf s).outcome

/-- `WALK.ESC` (R105, R106). -/
def execWalkEsc (s : State) : Outcome := (walk .esc s).outcome

/-- `HUFF_SF` (R110). -/
def execHuffSf (s : State) : Outcome := (huffSf s).outcome

end Sys2Proof.Machine
end

