-- ==== Sys2Proof/Machine/Forward.lean ====
section
/-!
DEFINITION. The Forward Decoder (43_forward_decoder.md): `FWD_INIT`, the band operations, the dispatch
`BAND_STEP`, the band pointer and the loop `FWD_DECODE`.
-/

namespace Sys2Proof.Machine

/-- `FWD_INIT` (R117). The reads and writes stand in the order of the rule. -/
def fwdInit (s : State) : Micro Unit :=
  (need s.numWindowGroups .numWindowGroups s).andThen fun groups s =>
  (need s.maxSfb .maxSfb s).andThen fun bands s =>
    if s.cfg.maxGroups < groups.toNat ∨ s.cfg.maxSfb < bands.toNat then .ended (s.refuse .indexRange)
    else
      let s := { s with mem := { s.mem with scaleFactors := [] } }
      (need s.globalGain .globalGain s).andThen fun gain s =>
        .done () { s with
          scaleFactor := some gain
          isPosition := some 0
          noiseEnergy := some (gain - noiseOffset)
          noisePcmFlag := some true
          decState := some .normal
          pc := some ⟨0, 0⟩ }

/-! ### Band operations -/

/-- `BAND.CONCEALED` (R119). -/
def bandConcealed (s : State) : Micro Unit := writeElement 0 s

/-- `BAND.ZERO` (R120). -/
def bandZero (s : State) : Micro Unit := writeElement 0 s

/-- `t <- HUFF_SF`, the first line of every band operation that decodes a delta (R121, R122, R124, R126):
the band operation writes the delta register (R23, R37). -/
def takeDelta (s : State) : Micro Int :=
  (huffSf s).andThen fun d s => .done d { s with t := some d }

/-- The rule that `BAND.INTENSITY` and `BAND.INTENSITY2` share (R121, R122). -/
def bandPosition (s : State) : Micro Unit :=
  (takeDelta s).andThen fun t s =>
    if isNomatch t then conceal s
    else
      (need s.isPosition .isPosition s).andThen fun old s =>
      (newBaseline (old + t) s).andThen fun v s =>
        writeElement v { s with isPosition := some v }

/-- `BAND.NOISE.PCM` (R123): no bits are consumed, the operand is the header literal. -/
def bandNoisePcm (s : State) : Micro Unit :=
  let s := { s with noisePcmFlag := some false }
  (need s.noiseEnergy .noiseEnergy s).andThen fun old s =>
  (need s.dpcmNoiseNrg .dpcmNoiseNrg s).andThen fun raw s =>
  (newBaseline (old + noiseLiteralOf s.cfg.noiseLiteral raw) s).andThen fun v s =>
    writeElement v { s with noiseEnergy := some v }

/-- `BAND.NOISE.DPCM` (R124). -/
def bandNoiseDpcm (s : State) : Micro Unit :=
  (takeDelta s).andThen fun t s =>
    if isNomatch t then conceal s
    else
      (need s.noiseEnergy .noiseEnergy s).andThen fun old s =>
      (newBaseline (old + t) s).andThen fun v s =>
        writeElement v { s with noiseEnergy := some v }

/-- `BAND.BOOKSCL` (R125): `raise Abort(3)`, always. -/
def bandBookscl (s : State) : Micro Unit := .ended (s.abort .invalidCodebook)

/-- `BAND.SPECTRAL` (R126). The no-match test comes first, then the range, then the sign (R157). -/
def bandSpectral (s : State) : Micro Unit :=
  (takeDelta s).andThen fun t s =>
    if isNomatch t then conceal s
    else
      (need s.scaleFactor .scaleFactor s).andThen fun old s =>
      (newBaseline (old + t) s).andThen fun v s =>
        let s := { s with scaleFactor := some v }
        if underflows v then .ended (s.abort .scaleFactorUnderflow) else writeElement v s

/-- `FWD_INIT` (R117). -/
def execFwdInit (s : State) : Outcome := (fwdInit s).outcome

/-- `BAND.CONCEALED` (R119). -/
def execBandConcealed (s : State) : Outcome := (bandConcealed s).outcome

/-- `BAND.ZERO` (R120). -/
def execBandZero (s : State) : Outcome := (bandZero s).outcome

/-- `BAND.INTENSITY` (R121). -/
def execBandIntensity (s : State) : Outcome := (bandPosition s).outcome

/-- `BAND.INTENSITY2` (R122): the two codebooks share the one baseline. -/
def execBandIntensity2 (s : State) : Outcome := (bandPosition s).outcome

/-- `BAND.NOISE.PCM` (R123). -/
def execBandNoisePcm (s : State) : Outcome := (bandNoisePcm s).outcome

/-- `BAND.NOISE.DPCM` (R124). -/
def execBandNoiseDpcm (s : State) : Outcome := (bandNoiseDpcm s).outcome

/-- `BAND.BOOKSCL` (R125). -/
def execBandBookscl (s : State) : Outcome := (bandBookscl s).outcome

/-- `BAND.SPECTRAL` (R126). The eleven codebook values are not distinguished (R70). -/
def execBandSpectral (_cb : BitVec 4) (s : State) : Outcome := (bandSpectral s).outcome

/-! ### Dispatch, band pointer and loop -/

/-- `BAND_STEP` (R118), as the rule's own case list. In state CONCEALED `sfb_cb` is not read. -/
def bandStep (s : State) : Micro Unit :=
  (need s.decState .decState s).andThen fun d s =>
    if d = .concealed then bandConcealed s
    else
      (need s.pc .pc s).andThen fun p s =>
      (readCodebook p s).andThen fun cb s =>
        if cb = 0#4 then bandZero s
        else if cb = 15#4 then bandPosition s
        else if cb = 14#4 then bandPosition s
        else if cb = 13#4 then
          (need s.noisePcmFlag .noisePcmFlag s).andThen fun first s =>
            if first then bandNoisePcm s else bandNoiseDpcm s
        else if cb = 12#4 then bandBookscl s
        else bandSpectral s

/-- The band pointer after a band that did not abort (R128): group-major, band-minor. -/
def nextPtr (bands : Nat) (p : BandPtr) : BandPtr :=
  if p.sfb + 1 < bands then ⟨p.g, p.sfb + 1⟩ else ⟨p.g + 1, 0⟩

/-- Band pointer advance (R128). -/
def advancePc (s : State) : Micro Unit :=
  (need s.pc .pc s).andThen fun p s =>
  (need s.maxSfb .maxSfb s).andThen fun bands s =>
    .done () { s with pc := some (nextPtr bands.toNat p) }

/-- The loop test of R116: is there a band to process? With `max_sfb = 0` there is none, and the loop
ends with `g = num_window_groups`. -/
def loopTest (s : State) : Micro Bool :=
  (need s.pc .pc s).andThen fun p s =>
  (need s.numWindowGroups .numWindowGroups s).andThen fun groups s =>
  (need s.maxSfb .maxSfb s).andThen fun bands s =>
    if p.g < groups.toNat then
      if bands.toNat = 0 then .done false { s with pc := some ⟨groups.toNat, p.sfb⟩ }
      else .done true s
    else .done false s

/-- The loop of `FWD_DECODE` (R116). The first argument bounds the number of loop tests. -/
def bandLoop : Nat → State → Micro Unit
  | 0, s => .done () s
  | n + 1, s =>
    (loopTest s).andThen fun more s =>
      if more then
        (bandStep s).andThen fun _ s =>
        (advancePc s).andThen fun _ s => bandLoop n s
      else .done () s

/-- The loop tests a run needs: one for each band (R182), and the last. -/
def loopBound (s : State) : Nat :=
  (s.numWindowGroups.getD 0#4).toNat * (s.maxSfb.getD 0#6).toNat + 1

/-- `FWD_DECODE` (R116, R129). An abort, a fault or a refusal ends it early. -/
def fwdDecode (s : State) : Micro Unit :=
  (fwdInit s).andThen fun _ s =>
  (bandLoop (loopBound s) s).andThen fun _ s => .done () { s with result := some codeOk }

end Sys2Proof.Machine
end

