-- ==== Sys2Proof/Machine/Header.lean ====
section
/-!
DEFINITION. The Header Parser (40_header_parser.md): the eight field operations and the composite
`HDR_PARSE`. Each operation reads `main` and writes one header register.
-/

namespace Sys2Proof.Machine

/-- `HDR.SFC` (R86). -/
def hdrSfc (s : State) : Micro Unit :=
  (readMainBit s).andThen fun b s => .done () { s with sfConcealment := some b }

/-- `HDR.RGG` (R87). -/
def hdrRgg (s : State) : Micro Unit :=
  (readMain 8 s).andThen fun v s => .done () { s with revGlobalGain := some (BitVec.ofNat 8 v) }

/-- The raw length field of width `w` (R88). -/
def hdrLenSf (w : Nat) (s : State) : Micro Unit :=
  (readMain w s).andThen fun v s => .done () { s with lengthOfRvlcSf := some (BitVec.ofNat 11 v) }

/-- `HDR.NOISE_NRG` (R89): the literal is read from `main`, then 9 is taken off the length (R67). -/
def hdrNoiseNrg (s : State) : Micro Unit :=
  (readMain noiseBits s).andThen fun v s =>
    let s := { s with dpcmNoiseNrg := some (BitVec.ofNat 9 v) }
    (need s.lengthOfRvlcSf .lengthOfRvlcSf s).andThen fun len s =>
      if len.toNat < noiseBits then .ended (s.refuse .lenSfUnderflow)
      else .done () { s with lengthOfRvlcSf := some (BitVec.ofNat 11 (len.toNat - noiseBits)) }

/-- `HDR.ESC_PRESENT` (R90). -/
def hdrEscPresent (s : State) : Micro Unit :=
  (readMainBit s).andThen fun b s => .done () { s with sfEscapesPresent := some b }

/-- `HDR.LEN_ESC` (R91). -/
def hdrLenEsc (s : State) : Micro Unit :=
  (readMain 8 s).andThen fun v s => .done () { s with lengthOfRvlcEscapes := some (BitVec.ofNat 8 v) }

/-- `HDR.NOISE_LASTPOS` (R92). -/
def hdrNoiseLastpos (s : State) : Micro Unit :=
  (readMain 9 s).andThen fun v s =>
    .done () { s with dpcmNoiseLastPosition := some (BitVec.ofNat 9 v) }

/-- `HDR.SFC` (R86). -/
def execHdrSfc (s : State) : Outcome := (hdrSfc s).outcome

/-- `HDR.RGG` (R87). -/
def execHdrRgg (s : State) : Outcome := (hdrRgg s).outcome

/-- `HDR.LEN_SF9` (R88, `w = 9`). -/
def execHdrLenSf9 (s : State) : Outcome := (hdrLenSf 9 s).outcome

/-- `HDR.LEN_SF11` (R88, `w = 11`). -/
def execHdrLenSf11 (s : State) : Outcome := (hdrLenSf 11 s).outcome

/-- `HDR.NOISE_NRG` (R89). -/
def execHdrNoiseNrg (s : State) : Outcome := (hdrNoiseNrg s).outcome

/-- `HDR.ESC_PRESENT` (R90). -/
def execHdrEscPresent (s : State) : Outcome := (hdrEscPresent s).outcome

/-- `HDR.LEN_ESC` (R91). -/
def execHdrLenEsc (s : State) : Outcome := (hdrLenEsc s).outcome

/-- `HDR.NOISE_LASTPOS` (R92). -/
def execHdrNoiseLastpos (s : State) : Outcome := (hdrNoiseLastpos s).outcome

/-- Runs a field operation of the parse with the phase standing at its field (R27). -/
def atField (f : HdrStep) (op : State → Micro Unit) (s : State) : Micro Unit :=
  op { s with phase := .hdr f }

/-- Runs a field operation only if its condition holds (the brackets of R85). -/
def onlyIf (b : Bool) (op : State → Micro Unit) (s : State) : Micro Unit :=
  if b then op s else .done () s

/-- `HDR_PARSE` (R85). -/
def hdrParse (s : State) : Micro Unit :=
  (atField .sfc hdrSfc s).andThen fun _ s =>
  (atField .rgg hdrRgg s).andThen fun _ s =>
  (atField .lenSf (fun s => (need s.isEightShort .isEightShort s).andThen fun short s =>
    if short then hdrLenSf 11 s else hdrLenSf 9 s) s).andThen fun _ s =>
  (need s.noiseUsed .noiseUsed s).andThen fun noise s =>
  (onlyIf noise (atField .noiseNrg hdrNoiseNrg) s).andThen fun _ s =>
  (atField .escPresent hdrEscPresent s).andThen fun _ s =>
  (need s.sfEscapesPresent .sfEscapesPresent s).andThen fun escapes s =>
  (onlyIf escapes (atField .lenEsc hdrLenEsc) s).andThen fun _ s =>
  (need s.noiseUsed .noiseUsed s).andThen fun noise s =>
  onlyIf noise (atField .noiseLastpos hdrNoiseLastpos) s

end Sys2Proof.Machine
end

