-- ==== Sys2Proof/Machine/Command.lean ====
section
/-!
DEFINITION. The two commands (44_sequencer.md), each as one atomic transition (R145): `CMD_HDR` and
`CMD_DEC`.
-/

namespace Sys2Proof.Machine

/-- The end of a `CMD_HDR` whose parse completed (R139). -/
def endHdr (s : State) : State := { s with result := some codeOk, hdrDone := true, phase := .idle }

/-- `CMD_HDR` (R139). -/
def cmdHdr (s : State) : Micro Unit :=
  if s.phase = .idle then
    (hdrParse { s with phase := .hdr .sfc }).andThen fun _ s => .done () (endHdr s)
  else .ended (s.refuse .commandWhileBusy)

/-- The body of `CMD_DEC` between its acceptance and `RELEASE` (R140): carve, then decode. -/
def decBody (s : State) : Micro Unit :=
  (carveSf { s with phase := .carve .sf }).andThen fun _ s =>
  (carveEsc { s with phase := .carve .esc }).andThen fun _ s =>
  fwdDecode { s with phase := .decode .init }

/-- `CMD_DEC` (R140). Every way out of the body goes through `RELEASE` (R101). -/
def cmdDec (s : State) : Micro Unit :=
  if s.phase = .idle then
    if s.hdrDone then
      match decBody s with
      | .done _ s => .done () s.leaveDec
      | .ended s => .ended s.leaveDec
    else .ended (s.refuse .decodeBeforeHeader)
  else .ended (s.refuse .commandWhileBusy)

/-- `CMD_HDR` (R139). -/
def execCmdHdr (s : State) : Outcome := (cmdHdr s).outcome

/-- `CMD_DEC` (R140). -/
def execCmdDec (s : State) : Outcome := (cmdDec s).outcome

end Sys2Proof.Machine
end

