-- ==== Sys2Proof/Machine/Dispatch.lean ====
section
/-!
DEFINITION. One arm per operation: each calls the operation's own meaning.
-/

namespace Sys2Proof.Machine

def exec (i : Instr) (s : State) : Host.Outcome State Fault Refusal :=
  match i with
  | .hdrSfc => Sys2Proof.Machine.execHdrSfc s
  | .hdrRgg => Sys2Proof.Machine.execHdrRgg s
  | .hdrLenSf9 => Sys2Proof.Machine.execHdrLenSf9 s
  | .hdrLenSf11 => Sys2Proof.Machine.execHdrLenSf11 s
  | .hdrNoiseNrg => Sys2Proof.Machine.execHdrNoiseNrg s
  | .hdrEscPresent => Sys2Proof.Machine.execHdrEscPresent s
  | .hdrLenEsc => Sys2Proof.Machine.execHdrLenEsc s
  | .hdrNoiseLastpos => Sys2Proof.Machine.execHdrNoiseLastpos s
  | .carveSf => Sys2Proof.Machine.execCarveSf s
  | .carveEsc => Sys2Proof.Machine.execCarveEsc s
  | .release => Sys2Proof.Machine.execRelease s
  | .walkSf => Sys2Proof.Machine.execWalkSf s
  | .walkEsc => Sys2Proof.Machine.execWalkEsc s
  | .huffSf => Sys2Proof.Machine.execHuffSf s
  | .fwdInit => Sys2Proof.Machine.execFwdInit s
  | .bandConcealed => Sys2Proof.Machine.execBandConcealed s
  | .bandZero => Sys2Proof.Machine.execBandZero s
  | .bandIntensity => Sys2Proof.Machine.execBandIntensity s
  | .bandIntensity2 => Sys2Proof.Machine.execBandIntensity2 s
  | .bandNoisePcm => Sys2Proof.Machine.execBandNoisePcm s
  | .bandNoiseDpcm => Sys2Proof.Machine.execBandNoiseDpcm s
  | .bandBookscl => Sys2Proof.Machine.execBandBookscl s
  | .bandSpectral cb => Sys2Proof.Machine.execBandSpectral cb s
  | .cmdHdr => Sys2Proof.Machine.execCmdHdr s
  | .cmdDec => Sys2Proof.Machine.execCmdDec s

end Sys2Proof.Machine
end

