-- ==== Sys2Proof/Machine/Sequencer.lean ====
section
/-!
DEFINITION. What a step does (44_sequencer.md): the host's acts in phase `IDLE`, the selection of the
next micro-operation of a command in progress, and what follows it (R145). Machine/Step.lean only
calls `sequenceStep`.
-/

namespace Sys2Proof.Machine

/-! ### Selecting the next operation -/

/-- The operation that the decoder reads from a word, or the state unchanged when it rejects the word,
which no phase below can bring about except for a run that has ended: then the next operation is
`RELEASE` (R130, R152). -/
def selected (d : Decoded) (s : State) : Micro Instr :=
  match d with
  | .instr i => .done i s
  | .rejected _ => .done .release s

/-- The band operation at the band pointer (R118): the codebook word decoded in the decoder state. -/
def fetchBand (s : State) : Micro Instr :=
  (need s.decState .decState s).andThen fun d s =>
    match d with
    | .concealed => .done .bandConcealed s
    | .aborted _ => .done .release s
    | .normal =>
      (need s.pc .pc s).andThen fun p s =>
      (readCodebook p s).andThen fun cb s =>
        if cb = 13#4 then
          (need s.noisePcmFlag .noisePcmFlag s).andThen fun first s =>
            selected (decode (.band .normal first) (bitsOf 4 cb.toNat)) s
        else selected (decode (.band .normal true) (bitsOf 4 cb.toNat)) s

/-- The operation the phase stands at (R27, R85, R96, R116). -/
def fetchOp (s : State) : Micro Instr :=
  match s.phase with
  | .idle => .done .release s
  | .hdr .lenSf =>
    (need s.isEightShort .isEightShort s).andThen fun short s => .done (headerOp short .lenSf) s
  | .hdr .sfc => .done (headerOp false .sfc) s
  | .hdr .rgg => .done (headerOp false .rgg) s
  | .hdr .noiseNrg => .done (headerOp false .noiseNrg) s
  | .hdr .escPresent => .done (headerOp false .escPresent) s
  | .hdr .lenEsc => .done (headerOp false .lenEsc) s
  | .hdr .noiseLastpos => .done (headerOp false .noiseLastpos) s
  | .carve .sf => selected (decode (.sequenced .carveSf) []) s
  | .carve .esc => selected (decode (.sequenced .carveEsc) []) s
  | .decode .init => selected (decode (.sequenced .fwdInit) []) s
  | .decode .band => fetchBand s
  | .release => selected (decode (.sequenced .release) []) s

/-! ### What follows an operation -/

/-- After the escape fields of the header (R85): the last field, or the end of the parse. -/
def afterEscapes (s : State) : Micro Unit :=
  (need s.noiseUsed .noiseUsed s).andThen fun noise s =>
    if noise then .done () { s with phase := .hdr .noiseLastpos } else .done () (endHdr s)

/-- After a header field (R85): the next field of the fixed order, or the end of the parse (R139). -/
def afterField (f : HdrStep) (s : State) : Micro Unit :=
  match f with
  | .sfc => .done () { s with phase := .hdr .rgg }
  | .rgg => .done () { s with phase := .hdr .lenSf }
  | .lenSf =>
    (need s.noiseUsed .noiseUsed s).andThen fun noise s =>
      if noise then .done () { s with phase := .hdr .noiseNrg }
      else .done () { s with phase := .hdr .escPresent }
  | .noiseNrg => .done () { s with phase := .hdr .escPresent }
  | .escPresent =>
    (need s.sfEscapesPresent .sfEscapesPresent s).andThen fun escapes s =>
      if escapes then .done () { s with phase := .hdr .lenEsc } else afterEscapes s
  | .lenEsc => afterEscapes s
  | .noiseLastpos => .done () (endHdr s)

/-- The loop test of R116: a band is next, or the run ends with `result = 0` (R129) and `RELEASE` is
next (R140). -/
def toBandOrEnd (s : State) : Micro Unit :=
  (loopTest s).andThen fun more s =>
    if more then .done () { s with phase := .decode .band }
    else .done () { s with result := some codeOk, phase := .release }

/-- After a band operation (R128, R152): an abort goes to `RELEASE` with `pc` not advanced. -/
def afterBand (s : State) : Micro Unit :=
  if s.aborted then .done () { s with phase := .release }
  else (advancePc s).andThen fun _ s => toBandOrEnd s

/-- What follows the operation of a phase (R85, R116, R139, R140). -/
def afterOp (s : State) : Micro Unit :=
  match s.phase with
  | .idle => .done () s
  | .hdr f => afterField f s
  | .carve .sf => .done () { s with phase := .carve .esc }
  | .carve .esc => .done () { s with phase := .decode .init }
  | .decode .init => toBandOrEnd s
  | .decode .band => afterBand s
  | .release => .done () { s with phase := .idle }

/-- The unit after its operation answered: a marked state stays as it is, the operation in progress has
stopped (R155, R156); otherwise the phase goes on. -/
def continueWith (o : Outcome) : Outcome :=
  match o with
  | .next s => if s.marked then .next s else (afterOp s).outcome
  | .fault r => .fault r
  | .refused r => .refused r

/-- One micro-operation of a command in progress (R145): select, run, go on. -/
def microStep (s : State) : Outcome :=
  match fetchOp s with
  | .done i s => continueWith (exec i s)
  | .ended s => .next s

/-! ### The host -/

/-- The start of a command as a sequence of micro-operations (R139, R140, R145): accepted, and the phase
stands at its first operation. -/
def beginCommand (i : Instr) (s : State) : State :=
  match s.phase, i with
  | .idle, .cmdHdr => { s with phase := .hdr .sfc }
  | .idle, .cmdDec =>
    if s.hdrDone then { s with phase := .carve .sf } else s.refuse .decodeBeforeHeader
  | _, _ => s.refuse .commandWhileBusy

/-- `H_BIND` (R138). -/
def hostBind (buf : Bits) (pos : Nat) (s : State) : State :=
  if pos ≤ buf.length then { s with main := some ⟨buf, pos⟩ } else s.refuse .bindOutOfRange

/-- `H_BIND` of the first `len` bits of a byte buffer (R41, R138). -/
def hostBindBytes (bytes : List Byte) (len pos : Nat) (s : State) : State :=
  if len ≤ 8 * bytes.length then hostBind (bitsOfBytes bytes len) pos s
  else s.refuse .bindOutOfRange

/-- `H_LOAD` of one codebook element (R137). -/
def hostLoadSfbCb (g sfb : Nat) (v : BitVec 4) (s : State) : State :=
  if elementExists s.cfg g sfb then { s with mem := { s.mem with sfbCb := cellWrite g sfb v s.mem.sfbCb } }
  else s.refuse .noSuchElement

/-- One act of the host (R137, R138, R139, R140). -/
def hostAct (op : HostOp) (s : State) : Outcome :=
  match op with
  | .loadIsEightShort v => .next { s with isEightShort := some v }
  | .loadNoiseUsed v => .next { s with noiseUsed := some v }
  | .loadNumWindowGroups v => .next { s with numWindowGroups := some v }
  | .loadMaxSfb v => .next { s with maxSfb := some v }
  | .loadGlobalGain v => .next { s with globalGain := some v }
  | .loadSfbCb g sfb v => .next (hostLoadSfbCb g sfb v s)
  | .bind buf pos => .next (hostBind buf pos s)
  | .bindBytes bytes len pos => .next (hostBindBytes bytes len pos s)
  | .command w .whole => exec (commandOp w) s
  | .command w .unguarded => exec (commandOp w) s
  | .command w .stepped => .next (beginCommand (commandOp w) s)

/-- What `H_READ` gives the host (R141): the result, the header registers, `main.pos` and the table. An
absent value is one the host may not rely on. -/
structure HostView where
  result : Option (BitVec 8)
  sfConcealment : Option Bool
  revGlobalGain : Option (BitVec 8)
  lengthOfRvlcSf : Option (BitVec 11)
  dpcmNoiseNrg : Option (BitVec 9)
  sfEscapesPresent : Option Bool
  lengthOfRvlcEscapes : Option (BitVec 8)
  dpcmNoiseLastPosition : Option (BitVec 9)
  mainPos : Option Nat
  scaleFactors : Cells Int
  deriving DecidableEq, Repr

/-- `H_READ` (R141): only in phase `IDLE`. DESIGN CHOICE: a register or `main.pos` that holds `undef` is read
as an absent value, with no fault, as R141 says of an element of the table (log entry 22). -/
def hostRead (s : State) : Option HostView :=
  match s.phase with
  | .idle => some
      { result := s.result
        sfConcealment := s.sfConcealment
        revGlobalGain := s.revGlobalGain
        lengthOfRvlcSf := s.lengthOfRvlcSf
        dpcmNoiseNrg := s.dpcmNoiseNrg
        sfEscapesPresent := s.sfEscapesPresent
        lengthOfRvlcEscapes := s.lengthOfRvlcEscapes
        dpcmNoiseLastPosition := s.dpcmNoiseLastPosition
        mainPos := s.main.map Cursor.pos
        scaleFactors := s.mem.scaleFactors }
  | .hdr _ | .carve _ | .decode _ | .release => none

/-! ### The step -/

/-- A marked state with no `CMD_DEC` in progress goes no further (R29, R155, R156). -/
def stopMarked (s : State) : Outcome :=
  match s.fault, s.refused with
  | some r, _ => .fault r
  | none, some r => .refused r
  | none, none => .next s

/-- One step. A marked state only runs the `RELEASE` it owes (R155), then stops. In phase `IDLE` the
host's next act happens, or the unit waits (R136). In any other phase the command in progress goes on,
and the host has no move (R172) except to issue a command that is refused (R142). DESIGN CHOICE: that
refusal also ends the command in progress, because the state is then marked (log entry 21). -/
def sequenceStep (s : State) : Outcome :=
  if s.marked then
    if s.phase.inDec then .next s.leaveDec else stopMarked s
  else
    match s.phase, s.host with
    | .idle, [] => .next s
    | .idle, op :: rest => hostAct op { s with host := rest }
    | _, .command w .unguarded :: rest => hostAct (.command w .unguarded) { s with host := rest }
    | _, _ => microStep s

/-- The state in which the very next step runs a given word of the opcode table (log entry 11): the
command is the host's next act, a header word is the stream at the main cursor, and a codebook word is
the element at the band pointer of a decode in state NORMAL. -/
def placeWord (s : State) (i : Instr) (w : Nat) : State :=
  let s := { s with fault := none, refused := none, host := [] }
  match i with
  | .cmdHdr | .cmdDec => { s with phase := .idle, host := [.command (BitVec.ofNat 1 w) .whole] }
  | .hdrRgg => { s with phase := .hdr .rgg, main := some ⟨bitsOf 8 w, 0⟩ }
  | .hdrLenSf9 => { s with phase := .hdr .lenSf, isEightShort := some false, main := some ⟨bitsOf 9 w, 0⟩ }
  | .hdrLenSf11 => { s with phase := .hdr .lenSf, isEightShort := some true, main := some ⟨bitsOf 11 w, 0⟩ }
  | .bandConcealed | .bandZero | .bandIntensity | .bandIntensity2 | .bandNoisePcm | .bandNoiseDpcm
  | .bandBookscl | .bandSpectral _ =>
    { s with
      phase := .decode .band, pc := some ⟨0, 0⟩, decState := some .normal, noisePcmFlag := some true
      numWindowGroups := some 1#4, maxSfb := some 1#6
      mem := { s.mem with sfbCb := cellWrite 0 0 (BitVec.ofNat 4 w) s.mem.sfbCb } }
  | .hdrSfc | .hdrNoiseNrg | .hdrEscPresent | .hdrLenEsc | .hdrNoiseLastpos | .carveSf | .carveEsc
  | .release | .walkSf | .walkEsc | .huffSf | .fwdInit => s

end Sys2Proof.Machine
end

