-- ==== Sys2Proof/Machine/Step.lean ====
section
/-!
DEFINITION. The step of the unit, and the placing of one word of the opcode table for the next step.
-/

namespace Sys2Proof.Machine

/-- One step of the unit. -/
def step (s : State) : Host.Outcome State Fault Refusal := sequenceStep s

/-- `s` with a word of the opcode table placed where the next step takes its operation from. -/
def State.withFetchWord (s : State) (nbits w : Nat) : State :=
  match decodeTableWord nbits w with
  | some i => placeWord s i w
  | none => s

end Sys2Proof.Machine
end

