-- ==== Sys2Proof/Safety.lean ====
section
/-!
DEFINITION. What claims call a good state: the premises the host owes before a command (R170, R171),
and the invariant `State.inv` that every step keeps.
-/

namespace Sys2Proof.Machine

/-! ### What the host owes (70_reset_and_hazards.md) -/

/-- Before `CMD_HDR` (R170): the unit is idle, `main` is bound, and the parser's two inputs are written. -/
def State.readyForHdr (s : State) : Bool :=
  decide (s.phase = .idle) && !s.marked && s.main.isSome && s.isEightShort.isSome && s.noiseUsed.isSome

/-- Every codebook element in range is written (R171). -/
def State.codebooksLoaded (s : State) : Bool :=
  (List.range (s.numWindowGroups.getD 0#4).toNat).all fun g =>
    (List.range (s.maxSfb.getD 0#6).toNat).all fun sfb => (cellRead g sfb s.mem.sfbCb).isSome

/-- Before `CMD_DEC` (R171): a header was parsed, and the decoder's inputs are written. -/
def State.readyForDec (s : State) : Bool :=
  decide (s.phase = .idle) && !s.marked && s.hdrDone && s.main.isSome && s.numWindowGroups.isSome &&
    s.maxSfb.isSome && s.globalGain.isSome && s.codebooksLoaded

/-! ### The invariant -/

/-- The elements listed in the table memories exist (R51). -/
def State.elementsOk (s : State) : Bool :=
  (s.mem.sfbCb.all fun e => elementExists s.cfg e.1.1 e.1.2) &&
    s.mem.scaleFactors.all fun e => elementExists s.cfg e.1.1 e.1.2

/-- A cursor that is there stands inside its buffer (R39). -/
def cursorOk (c : Option Cursor) : Bool := (c.getD Cursor.empty).wf

/-- Every cursor stands inside its buffer (R16, R20, R39). -/
def State.cursorsOk (s : State) : Bool := cursorOk s.main && cursorOk s.sf && cursorOk s.esc

/-- A carved segment fits its buffer: 2047 and 255 bits (R6, R20). -/
def State.segmentsOk (s : State) : Bool :=
  decide ((s.sf.getD Cursor.empty).len ≤ 2047 ∧ (s.esc.getD Cursor.empty).len ≤ 255)

/-- Sub-cursors are held only inside a `CMD_DEC`, each from its carve on (R20, R101, R173). -/
def State.heldOk (s : State) : Bool :=
  match s.phase with
  | .idle | .hdr _ | .carve .sf => s.sf.isNone && s.esc.isNone
  | .carve .esc => s.esc.isNone
  | .decode _ | .release => true

/-- `result` only ever holds 0, 3 or 4 (R28). -/
def State.resultOk (s : State) : Bool :=
  match s.result with
  | none => true
  | some r => decide (r = codeOk ∨ r = codeInvalidCodebook ∨ r = codeSfUnderflow)

/-- The walker registers hold nothing between walks (R24); only a walk that faulted leaves values. -/
def State.walkerOk (s : State) : Bool := s.fault.isSome || decide (s.walker = Walker.undef)

/-- The header registers that the carver reads hold values (R96, R98). -/
def State.headerRegs (s : State) : Bool :=
  s.lengthOfRvlcSf.isSome &&
    match s.sfEscapesPresent with
    | none => false
    | some present => !present || s.lengthOfRvlcEscapes.isSome

/-- Which header registers hold values, by how far the command has come (R85, R96). -/
def State.headerOk (s : State) : Bool :=
  match s.phase with
  | .idle => !s.hdrDone || s.headerRegs
  | .hdr .sfc | .hdr .rgg | .hdr .lenSf => true
  | .hdr .noiseNrg | .hdr .escPresent => s.lengthOfRvlcSf.isSome
  | .hdr .lenEsc => s.lengthOfRvlcSf.isSome && decide (s.sfEscapesPresent = some true)
  | .hdr .noiseLastpos => s.headerRegs
  | .carve _ | .decode _ | .release => s.hdrDone && s.headerRegs

/-- At a band (R21, R30, R53, R117): the band pointer is in range, the decoder registers hold values,
the run is not over, and exactly earlier elements of `scale_factors` are listed. -/
def State.bandOk (s : State) : Bool :=
  match s.pc, s.numWindowGroups, s.maxSfb with
  | some p, some groups, some bands =>
    decide (p.g < groups.toNat ∧ p.sfb < bands.toNat ∧ groups.toNat ≤ s.cfg.maxGroups ∧
        bands.toNat ≤ s.cfg.maxSfb) &&
      s.scaleFactor.isSome && s.isPosition.isSome && s.noiseEnergy.isSome && s.noisePcmFlag.isSome &&
      decide (s.decState = some .normal ∨ s.decState = some .concealed) &&
      s.mem.scaleFactors.all fun e => keyLt e.1 (p.g, p.sfb)
  | _, _, _ => false

/-- While a decode runs unmarked at a band, `bandOk` holds. -/
def State.decodeOk (s : State) : Bool :=
  match s.phase with
  | .decode .band => s.marked || s.bandOk
  | .idle | .hdr _ | .carve _ | .decode .init | .release => true

/-- The invariant of the unit. -/
def State.inv (s : State) : Bool :=
  s.mem.wf && s.elementsOk && s.cursorsOk && s.segmentsOk && s.heldOk && s.resultOk && s.walkerOk &&
    s.headerOk && s.decodeOk

end Sys2Proof.Machine
end

