-- ==== Sys2Proof/Certificates/Slice0/Obligations.lean ====
section
/-!
DEFINITION. The statements for the provers. Every statement is about every state, and so about every
configuration (tables, escape marker, widths, policy), because the configuration is part of the state.
-/

namespace Sys2Proof.Claims

open Sys2Proof Sys2Proof.Machine

/-- `main` stands before the bits `b`; `pre` has been passed and `post` follows. -/
def AtBits (s : State) (pre b post : Bits) : Prop := s.main = some ⟨pre ++ b ++ post, pre.length⟩

/-- `s` with `main` moved past the bits `b`. -/
def past (s : State) (pre b post : Bits) : State :=
  { s with main := some ⟨pre ++ b ++ post, pre.length + b.length⟩ }

/-- `main` has fewer than `n` bits left (R43). -/
def MainShort (s : State) (n : Nat) : Prop := ∃ c, s.main = some c ∧ c.len < c.pos + n

/-- `OVERRUN_POLICY` is the default: a read of `n` bits of `main` that are not there makes the operation
raise `CursorOverrun(main)`, with nothing read and nothing else changed (R43, spec decision D11). -/
def FaultsWhenShort (i : Instr) (s : State) (n : Nat) : Prop :=
  MainShort s n → s.cfg.overrunPolicy = .fault →
    exec i s = .next { s with fault := some (.cursorOverrun .main) }

/-- The element at the band pointer `p` exists. -/
def AtElement (s : State) (p : BandPtr) : Prop :=
  s.pc = some p ∧ elementExists s.cfg p.g p.sfb = true

/-- `s` with `scale_factors[g][sfb] = v` at `p`, and no other change. -/
def wrote (s : State) (p : BandPtr) (v : Int) : State :=
  { s with mem := { s.mem with scaleFactors := cellWrite p.g p.sfb v s.mem.scaleFactors } }

/-- The codeword of an entry stands at the front of the bits. -/
def codewordAt (bits : Bits) (e : RomEntry) : Bool := decide (bits.take e.len = bitsOf e.len e.cw)

/-- What a table makes of the bits at a cursor, said without the walk: the value and the length of the
first entry in table order whose codeword stands there, else those of the sentinel (R74, R106). -/
def codeAt (T : Rom) (bits : Bits) : Int × Nat :=
  match T.entries.find? (codewordAt bits) with
  | some e => (e.val, e.len)
  | none => (T.sentinel.val, T.sentinel.len)

/-- `s` after a completed walk of `x` that consumed `n` bits after `pre` and returned `v`. -/
def walked (s : State) (x : SubId) (pre bits : Bits) (n : Nat) (v : Int) : State :=
  { s.moveSub x ⟨pre ++ bits, pre.length + n⟩ with walker := Walker.undef, walkValue := some v }

/-- The primary lookup of `HUFF_SF` (R110) finds the value `v` at `sf` and leaves `s'`: its bits are in
the segment. -/
def PrimaryAt (s : State) (v : Int) (s' : State) : Prop :=
  ∃ pre bits, s.sf = some ⟨pre ++ bits, pre.length⟩ ∧ (codeAt s.cfg.tSf bits).2 ≤ bits.length ∧
    v = (codeAt s.cfg.tSf bits).1 ∧ s' = walked s .sf pre bits (codeAt s.cfg.tSf bits).2 v

/-- The escape lookup of `HUFF_SF` (R110) finds the value `e` at `esc` and leaves `s'`. -/
def EscapeAt (s : State) (e : Int) (s' : State) : Prop :=
  ∃ pre bits, s.esc = some ⟨pre ++ bits, pre.length⟩ ∧ (codeAt s.cfg.tEsc bits).2 ≤ bits.length ∧
    e = (codeAt s.cfg.tEsc bits).1 ∧ s' = walked s .esc pre bits (codeAt s.cfg.tEsc bits).2 e

/-- The value of a primary lookup is the escape marker, of either sign (R110). -/
def IsMarker (c : Config) (v : Int) : Prop := v = c.escVal ∨ v = -(c.escVal : Int)

/-- The next delta of the segments is `d`, and `s'` is the state with its bits consumed and the value
returned to the caller of `HUFF_SF` (R80, R110): a primary value that is no escape marker is the delta;
after a marker the escape value is added to a positive marker and subtracted from a negative one, and an
escape value of 99 is the delta 99. -/
def HuffAt (s : State) (d : Int) (s' : State) : Prop :=
  ∃ v s₁, PrimaryAt s v s₁ ∧
    ((¬ IsMarker s.cfg v ∧ d = v ∧ s' = { s₁ with huffValue := some d }) ∨
     (IsMarker s.cfg v ∧ ∃ e s₂, EscapeAt s₁ e s₂ ∧
        d = (if e = 99 then 99 else if v = s.cfg.escVal then v + e else v - e) ∧
        s' = { s₂ with huffValue := some d }))

/-- The next delta of the segments is `d`, and `s'` is the state in which a band operation has taken it
(`t <- HUFF_SF`): its bits are consumed and the delta register holds it (R23, R121). -/
def DeltaAt (s : State) (d : Int) (s' : State) : Prop :=
  ∃ s₁, HuffAt s d s₁ ∧ s' = { s₁ with t := some d }

/-- A lookup at the sub-cursor `x` needs bits that are not there: the segment was not carved, or it ends
before the codeword does (R50, R112). -/
def LookupShort (s : State) (x : SubId) : Prop :=
  s.sub x = none ∨ ∃ pre bits, s.sub x = some ⟨pre ++ bits, pre.length⟩ ∧
    bits.length < (codeAt (romOfSub s.cfg x) bits).2

/-- The next delta cannot be decoded: the primary lookup runs short, or its value is a marker and the
escape lookup runs short. -/
def DeltaShort (s : State) (x : SubId) : Prop :=
  (x = .sf ∧ LookupShort s .sf) ∨
    (x = .esc ∧ ∃ v s₁, PrimaryAt s v s₁ ∧ IsMarker s.cfg v ∧ LookupShort s₁ .esc)

/-- A state in which a command in progress goes on with its next micro-operation: no mark is set, and
the host is not issuing a command in spite of R142. -/
def Quiet (s : State) : Prop :=
  s.marked = false ∧ s.phase ≠ .idle ∧ ∀ w rest, s.host ≠ .command w .unguarded :: rest

/-- The declared length of the segments in the outer stream (R76, R100). -/
def declaredBits (len : BitVec 11) (present : Bool) (lenEsc : BitVec 8) : Nat :=
  len.toNat + if present then lenEsc.toNat else 0

/-- `(g, sfb)` is a band of the run (R21). -/
def InRange (s : State) (g sfb : Nat) : Prop :=
  g < (s.numWindowGroups.getD 0#4).toNat ∧ sfb < (s.maxSfb.getD 0#6).toNat

/-- The element `(g, sfb)` of the output table. -/
def element (s : State) (g sfb : Nat) : Option Int := cellRead g sfb s.mem.scaleFactors

/-- After the first `k` bands of the `CMD_DEC` that starts in `s` the unit is in `u`: both carves and
`FWD_INIT` have completed (R140), then `k` rounds of the loop of R116. -/
def AfterBands (s : State) (k : Nat) (u : State) : Prop :=
  ∃ s₁ s₂ s₃, carveSf { s with phase := .carve .sf } = .done () s₁ ∧
    carveEsc { s₁ with phase := .carve .esc } = .done () s₂ ∧
    fwdInit { s₂ with phase := .decode .init } = .done () s₃ ∧ bandLoop k s₃ = .done () u

/-- The `CMD_DEC` that starts in `s` enters concealment at the band `p` (R127): `u` is the state at that
band, in NORMAL, and the band operation leaves the unit in CONCEALED. -/
def ConcealsAt (s : State) (p : BandPtr) (u : State) : Prop :=
  ∃ k v, AfterBands s k u ∧ u.decState = some .normal ∧ u.pc = some p ∧ bandStep u = .done () v ∧
    v.decState = some .concealed

/-- The eight header field operations with their widths (R86 to R92). -/
def headerWidths : List (Instr × Nat) :=
  [(.hdrSfc, 1), (.hdrRgg, 8), (.hdrLenSf9, 9), (.hdrLenSf11, 11), (.hdrNoiseNrg, 9),
   (.hdrEscPresent, 1), (.hdrLenEsc, 8), (.hdrNoiseLastpos, 9)]

/-- The operations that read or write nothing but the decoder registers, the sub-cursors and the
output table (R37). -/
def decoderOps : Instr → Bool
  | .walkSf | .walkEsc | .huffSf | .fwdInit | .bandConcealed | .bandZero | .bandIntensity
  | .bandIntensity2 | .bandNoisePcm | .bandNoiseDpcm | .bandBookscl | .bandSpectral _ => true
  | .hdrSfc | .hdrRgg | .hdrLenSf9 | .hdrLenSf11 | .hdrNoiseNrg | .hdrEscPresent | .hdrLenEsc
  | .hdrNoiseLastpos | .carveSf | .carveEsc | .release | .cmdHdr | .cmdDec => false

/-- The operations of the Header Parser, with the command that composes them. -/
def headerOps : Instr → Bool
  | .hdrSfc | .hdrRgg | .hdrLenSf9 | .hdrLenSf11 | .hdrNoiseNrg | .hdrEscPresent | .hdrLenEsc
  | .hdrNoiseLastpos | .cmdHdr => true
  | .walkSf | .walkEsc | .huffSf | .fwdInit | .bandConcealed | .bandZero | .bandIntensity
  | .bandIntensity2 | .bandNoisePcm | .bandNoiseDpcm | .bandBookscl | .bandSpectral _
  | .carveSf | .carveEsc | .release | .cmdDec => false

/-- The band operations that write one element of the output table. -/
def bandOps : Instr → Bool
  | .bandConcealed | .bandZero | .bandIntensity | .bandIntensity2 | .bandNoisePcm | .bandNoiseDpcm
  | .bandBookscl | .bandSpectral _ => true
  | .walkSf | .walkEsc | .huffSf | .fwdInit | .hdrSfc | .hdrRgg | .hdrLenSf9 | .hdrLenSf11
  | .hdrNoiseNrg | .hdrEscPresent | .hdrLenEsc | .hdrNoiseLastpos | .carveSf | .carveEsc | .release
  | .cmdHdr | .cmdDec => false

/-- The header registers of two states agree. -/
def SameHeader (s t : State) : Prop :=
  t.sfConcealment = s.sfConcealment ∧ t.revGlobalGain = s.revGlobalGain ∧
    t.lengthOfRvlcSf = s.lengthOfRvlcSf ∧ t.dpcmNoiseNrg = s.dpcmNoiseNrg ∧
    t.sfEscapesPresent = s.sfEscapesPresent ∧ t.lengthOfRvlcEscapes = s.lengthOfRvlcEscapes ∧
    t.dpcmNoiseLastPosition = s.dpcmNoiseLastPosition

/-- The context inputs and the configuration of two states agree (R17, R31). -/
def SameInputs (s t : State) : Prop :=
  t.cfg = s.cfg ∧ t.isEightShort = s.isEightShort ∧ t.noiseUsed = s.noiseUsed ∧
    t.numWindowGroups = s.numWindowGroups ∧ t.maxSfb = s.maxSfb ∧ t.globalGain = s.globalGain ∧
    t.mem.sfbCb = s.mem.sfbCb

/-- What a `CMD_DEC` finds at its start: accepted, with the header registers and the inputs of the
decoder written, the index ranges kept, and both declared segments in `main`. -/
structure Launch (s : State) (c : Cursor) (len : BitVec 11) (present : Bool) (lenEsc : BitVec 8)
    (groups : BitVec 4) (bands : BitVec 6) (gain : Int) : Prop where
  idle : s.phase = .idle
  unmarked : s.marked = false
  hdrDone : s.hdrDone = true
  mainIn : s.main = some c
  lengthIn : s.lengthOfRvlcSf = some len
  escapesIn : s.sfEscapesPresent = some present
  escLengthIn : present = true → s.lengthOfRvlcEscapes = some lenEsc
  enough : c.pos + declaredBits len present lenEsc ≤ c.len
  groupsIn : s.numWindowGroups = some groups
  bandsIn : s.maxSfb = some bands
  gainIn : s.globalGain = some gain
  groupsOk : groups.toNat ≤ s.cfg.maxGroups
  bandsOk : bands.toNat ≤ s.cfg.maxSfb

end Sys2Proof.Claims

open Sys2Proof Sys2Proof.Machine Sys2Proof.Claims

/-! ### Bit spaces and cursors -/

/-- R7, R40: `MemRead` takes the bit at the lowest address as the most significant. -/
def Obligations.MemReadIsMsbFirst : Prop :=
  ∀ (buf : Bits) (a n : Nat), a + n ≤ buf.length →
    memRead buf a n = ∑ k ∈ Finset.range n, (buf.getD (a + k) false).toNat * 2 ^ (n - 1 - k)

/-- R41: bit address `k` of a byte buffer is bit `7 - (k mod 8)` of byte `k / 8`, a byte-aligned read of
8 bits gives the byte, and a bit string survives being packed into bytes. -/
def Obligations.ByteBufferBitOrder : Prop :=
  (∀ (bytes : List Byte) (len k : Nat), k < len → len ≤ 8 * bytes.length →
    (bitsOfBytes bytes len).getD k false = (bytes.getD (k / 8) 0#8).getLsbD (7 - k % 8)) ∧
  (∀ (bytes : List Byte) (len q : Nat), 8 * q + 8 ≤ len → len ≤ 8 * bytes.length →
    memRead (bitsOfBytes bytes len) (8 * q) 8 = (bytes.getD q 0#8).toNat) ∧
  ∀ b : Bits, bitsOfBytes (bytesOfBits b) b.length = b ∧ (bytesOfBits b).length = (b.length + 7) / 8

/-- R41, R42: two reads that together cover the bits of one wider read give its value. -/
def Obligations.SuccessiveReadsConcatenate : Prop :=
  ∀ (p : OverrunPolicy) (c : Cursor) (m n : Nat), c.pos + (m + n) ≤ c.len →
    ∃ v₁ v₂ c₁ c₂, c.read p m = some (v₁, c₁) ∧ c₁.read p n = some (v₂, c₂) ∧ v₂ < 2 ^ n ∧
      c.read p (m + n) = some (v₁ * 2 ^ n + v₂, c₂) ∧ c₂ = { c with pos := c.pos + (m + n) }

/-- R43, R45: a read of zero bits gives 0 and never overruns, a longer read past the end overruns under
the default policy (spec decisions D11, D14). -/
def Obligations.ZeroBitReadNeverOverruns : Prop :=
  ∀ (p : OverrunPolicy) (c : Cursor) (n : Nat),
    c.read p 0 = some (0, c) ∧ (0 < n → c.len < c.pos + n → c.read .fault n = none)

/-- R46, R47, R48, R49: a carve copies exactly the next `L` bits, starts the copy at its own bit 0,
advances the source by `L`, and leaves nothing readable past bit `L - 1` (spec decisions
D13, D30). -/
def Obligations.CarveCopiesAndRealigns : Prop :=
  ∀ (p : OverrunPolicy) (c : Cursor) (L : Nat), c.pos + L ≤ c.len →
    ∃ new, c.carve p L = some (new, { c with pos := c.pos + L }) ∧ new.pos = 0 ∧ new.len = L ∧
      (∀ k, k < L → new.buf.getD k false = c.buf.getD (c.pos + k) false) ∧
      ∀ n, L < n → new.read .fault n = none

/-! ### Header Parser -/

/-- R86: `HDR.SFC` reads one bit, and faults when no bit is left. -/
def Obligations.HdrSfcReadsConcealmentBit : Prop :=
  ∀ s : State, FaultsWhenShort .hdrSfc s 1 ∧
    ∀ (b : Bool) (pre post : Bits), AtBits s pre [b] post →
      exec .hdrSfc s = .next { past s pre [b] post with sfConcealment := some b }

/-- R87: `HDR.RGG` reads 8 bits, and faults when they are not there. -/
def Obligations.HdrRggReadsGlobalGain : Prop :=
  ∀ s : State, FaultsWhenShort .hdrRgg s 8 ∧
    ∀ (g : BitVec 8) (pre post : Bits), AtBits s pre (bitsOf 8 g.toNat) post →
      exec .hdrRgg s = .next { past s pre (bitsOf 8 g.toNat) post with revGlobalGain := some g }

/-- R88: the raw length is read on 9 bits by `HDR.LEN_SF9` and on 11 bits by `HDR.LEN_SF11`, at every
value. -/
def Obligations.HdrLenSfReadsRawLength : Prop :=
  ∀ s : State, FaultsWhenShort .hdrLenSf9 s 9 ∧ FaultsWhenShort .hdrLenSf11 s 11 ∧
    ∀ (v : BitVec 11) (pre post : Bits),
      (v.toNat < 512 → AtBits s pre (bitsOf 9 v.toNat) post →
        exec .hdrLenSf9 s =
          .next { past s pre (bitsOf 9 v.toNat) post with lengthOfRvlcSf := some v }) ∧
      (AtBits s pre (bitsOf 11 v.toNat) post →
        exec .hdrLenSf11 s =
          .next { past s pre (bitsOf 11 v.toNat) post with lengthOfRvlcSf := some v })

/-- R67, R89: `HDR.NOISE_NRG` stores the raw literal and takes 9 off the length; a raw length below 9 is
refused after the literal has been read (spec decision D10). -/
def Obligations.HdrNoiseNrgAdjustsLength : Prop :=
  ∀ s : State, FaultsWhenShort .hdrNoiseNrg s 9 ∧
    ∀ (n : BitVec 9) (len : BitVec 11) (pre post : Bits),
      AtBits s pre (bitsOf 9 n.toNat) post → s.lengthOfRvlcSf = some len →
      (9 ≤ len.toNat → ∃ len' : BitVec 11, len'.toNat = len.toNat - 9 ∧
        exec .hdrNoiseNrg s = .next { past s pre (bitsOf 9 n.toNat) post with
          dpcmNoiseNrg := some n, lengthOfRvlcSf := some len' }) ∧
      (len.toNat < 9 →
        exec .hdrNoiseNrg s = .next { past s pre (bitsOf 9 n.toNat) post with
          dpcmNoiseNrg := some n, refused := some .lenSfUnderflow })

/-- R90: `HDR.ESC_PRESENT` reads one bit, and faults when no bit is left. -/
def Obligations.HdrEscPresentReadsFlag : Prop :=
  ∀ s : State, FaultsWhenShort .hdrEscPresent s 1 ∧
    ∀ (b : Bool) (pre post : Bits), AtBits s pre [b] post →
      exec .hdrEscPresent s = .next { past s pre [b] post with sfEscapesPresent := some b }

/-- R91: `HDR.LEN_ESC` reads 8 bits, and faults when they are not there. -/
def Obligations.HdrLenEscReadsEscapeLength : Prop :=
  ∀ s : State, FaultsWhenShort .hdrLenEsc s 8 ∧
    ∀ (n : BitVec 8) (pre post : Bits), AtBits s pre (bitsOf 8 n.toNat) post →
      exec .hdrLenEsc s =
        .next { past s pre (bitsOf 8 n.toNat) post with lengthOfRvlcEscapes := some n }

/-- R92: `HDR.NOISE_LASTPOS` reads 9 bits, stored raw (spec decision D37), and faults when they are not
there. -/
def Obligations.HdrNoiseLastposStoredRaw : Prop :=
  ∀ s : State, FaultsWhenShort .hdrNoiseLastpos s 9 ∧
    ∀ (n : BitVec 9) (pre post : Bits), AtBits s pre (bitsOf 9 n.toNat) post →
      exec .hdrNoiseLastpos s =
        .next { past s pre (bitsOf 9 n.toNat) post with dpcmNoiseLastPosition := some n }

/-- R14, R85 (spec decision D22): a header operation whose `main` was never bound, and a `CMD_HDR` whose
inputs were never written, raise `UnwrittenRead`. -/
def Obligations.HeaderReadsOfUnwrittenStateFault : Prop :=
  (∀ (s : State) (i : Instr) (w : Nat), (i, w) ∈ headerWidths → s.main = none →
    exec i s = .next { s with fault := some (.unwrittenRead .main) }) ∧
  ∀ (s : State) (c : Cursor), s.phase = .idle → s.main = some c →
    (c.pos + 9 ≤ c.len → s.isEightShort = none →
      ∃ t, exec .cmdHdr s = .next t ∧ t.fault = some (.unwrittenRead .isEightShort)) ∧
    (c.pos + 20 ≤ c.len → s.isEightShort ≠ none → s.noiseUsed = none →
      ∃ t, exec .cmdHdr s = .next t ∧ t.fault = some (.unwrittenRead .noiseUsed))

/-- R65, R181: the length of the header record in each of its layouts, between 19 and 47 bits. -/
def Obligations.HeaderRecordLength : Prop :=
  ∀ (short noise : Bool) (h : HeaderFields),
    (encodeHeader short noise h).length =
      1 + 8 + (if short then 11 else 9) + (if noise then 9 else 0) + 1 +
        (if h.sfEscapesPresent then 8 else 0) + (if noise then 9 else 0) ∧
    19 ≤ (encodeHeader short noise h).length ∧ (encodeHeader short noise h).length ≤ 47

/-- R64, R67, R85, R93, R94, R139: `CMD_HDR` inverts the header encoding, in all eight layouts and at
every value of every field: it consumes exactly the record, writes exactly the registers whose fields
are present, and returns 0. -/
def Obligations.CmdHdrInvertsHeaderEncoding : Prop :=
  ∀ (s : State) (short noise : Bool) (h : HeaderFields) (pre post : Bits),
    s.phase = .idle → s.isEightShort = some short → s.noiseUsed = some noise →
    (short = false → h.rawLength.toNat < 512) → (noise = true → 9 ≤ h.rawLength.toNat) →
    AtBits s pre (encodeHeader short noise h) post →
    ∃ len : BitVec 11, len.toNat = h.rawLength.toNat - (if noise then 9 else 0) ∧
      exec .cmdHdr s = .next { past s pre (encodeHeader short noise h) post with
        sfConcealment := some h.sfConcealment
        revGlobalGain := some h.revGlobalGain
        lengthOfRvlcSf := some len
        dpcmNoiseNrg := if noise then some h.dpcmNoiseNrg else s.dpcmNoiseNrg
        sfEscapesPresent := some h.sfEscapesPresent
        lengthOfRvlcEscapes :=
          if h.sfEscapesPresent then some h.lengthOfRvlcEscapes else s.lengthOfRvlcEscapes
        dpcmNoiseLastPosition :=
          if noise then some h.dpcmNoiseLastPosition else s.dpcmNoiseLastPosition
        result := some 0#8
        hdrDone := true }

/-- R81 (c), R89, R156: a header with `noise_used = 1` and a raw length below 9 is refused; no result is
written and no header counts as parsed (spec decision D10). -/
def Obligations.CmdHdrRefusesShortNoiseLength : Prop :=
  ∀ (s : State) (short : Bool) (h : HeaderFields) (pre post : Bits),
    s.phase = .idle → s.isEightShort = some short → s.noiseUsed = some true →
    h.rawLength.toNat < 9 → AtBits s pre (encodeHeader short true h) post →
    ∃ t, exec .cmdHdr s = .next t ∧ t.refused = some .lenSfUnderflow ∧ t.result = s.result ∧
      t.hdrDone = s.hdrDone ∧ t.dpcmNoiseNrg = some h.dpcmNoiseNrg

/-- R37, R85, R94: no operation of the Header Parser touches the sub-cursors, the decoder registers,
the walker or the output table. -/
def Obligations.HeaderOpsLeaveDecoderAlone : Prop :=
  ∀ (i : Instr) (s t : State), headerOps i = true → exec i s = .next t →
    t.sf = s.sf ∧ t.esc = s.esc ∧ t.pc = s.pc ∧ t.scaleFactor = s.scaleFactor ∧
      t.isPosition = s.isPosition ∧ t.noiseEnergy = s.noiseEnergy ∧ t.t = s.t ∧
      t.walker = s.walker ∧ t.walkValue = s.walkValue ∧ t.huffValue = s.huffValue ∧
      t.noisePcmFlag = s.noisePcmFlag ∧
      t.decState = s.decState ∧ t.mem = s.mem

/-! ### Segment Carver -/

/-- R96, R97: `CARVE.SF` carves exactly when the length is above 0; a segment that does not fit faults and
nothing moves (spec decision D11); a length that no parse has written faults (R14, spec decision D22). -/
def Obligations.CarveSfCarvesPositiveLength : Prop :=
  ∀ s : State,
    (s.lengthOfRvlcSf = none →
      exec .carveSf s = .next { s with fault := some (.unwrittenRead .lengthOfRvlcSf) }) ∧
    ∀ len : BitVec 11, s.lengthOfRvlcSf = some len →
      (∀ pre seg post, 0 < len.toNat → seg.length = len.toNat → AtBits s pre seg post →
        exec .carveSf s = .next { past s pre seg post with sf := some ⟨seg, 0⟩ }) ∧
      (len.toNat = 0 → exec .carveSf s = .next { s with sf := none }) ∧
      (0 < len.toNat → FaultsWhenShort .carveSf s len.toNat)

/-- R96, R98: `CARVE.ESC` carves exactly when `sf_escapes_present` is set, whatever the length; a segment
that does not fit faults and nothing moves (spec decision D11); a flag, or a length that it needs, that no
parse has written faults (R14, spec decision D22). -/
def Obligations.CarveEscFollowsEscapesPresent : Prop :=
  ∀ s : State,
    (s.sfEscapesPresent = none →
      exec .carveEsc s = .next { s with fault := some (.unwrittenRead .sfEscapesPresent) }) ∧
    (s.sfEscapesPresent = some false → exec .carveEsc s = .next { s with esc := none }) ∧
    (s.sfEscapesPresent = some true → s.lengthOfRvlcEscapes = none →
      exec .carveEsc s = .next { s with fault := some (.unwrittenRead .lengthOfRvlcEscapes) }) ∧
    ∀ len : BitVec 8, s.sfEscapesPresent = some true → s.lengthOfRvlcEscapes = some len →
      FaultsWhenShort .carveEsc s len.toNat ∧
      ∀ pre seg post, seg.length = len.toNat → AtBits s pre seg post →
        exec .carveEsc s = .next { past s pre seg post with esc := some ⟨seg, 0⟩ }

/-- R101: `RELEASE` disposes of both sub-cursors and changes nothing else, held or not. -/
def Obligations.ReleaseDisposesBothCursors : Prop :=
  ∀ s : State, exec .release s = .next { s with sf := none, esc := none }

/-! ### Table walker -/

/-- R105, R106, R107, R109: for every well-formed table set, a walk returns the value of the first entry in
table order whose codeword stands at the cursor, or the sentinel's, and consumes exactly that entry's
length. -/
def Obligations.WalkReturnsFirstMatchingEntry : Prop :=
  ∀ (s : State) (pre bits : Bits), s.cfg.wf = true →
    (s.sf = some ⟨pre ++ bits, pre.length⟩ → (codeAt s.cfg.tSf bits).2 ≤ bits.length →
      exec .walkSf s =
        .next (walked s .sf pre bits (codeAt s.cfg.tSf bits).2 (codeAt s.cfg.tSf bits).1)) ∧
    (s.esc = some ⟨pre ++ bits, pre.length⟩ → (codeAt s.cfg.tEsc bits).2 ≤ bits.length →
      exec .walkEsc s =
        .next (walked s .esc pre bits (codeAt s.cfg.tEsc bits).2 (codeAt s.cfg.tEsc bits).1))

/-- R50, R112, R114: a walk that needs more bits than its cursor holds, or whose cursor was never carved,
raises `CursorOverrun` under the default policy and returns no value (spec decisions D11, D12). -/
def Obligations.WalkShortOfBitsFaults : Prop :=
  ∀ (s : State) (x : SubId), s.cfg.wf = true → s.cfg.overrunPolicy = .fault → LookupShort s x →
    ∃ t, exec (match x with | .sf => .walkSf | .esc => .walkEsc) s = .next t ∧
      t.fault = some (.cursorOverrun x.cursorId) ∧ t.walkValue = s.walkValue ∧ t.t = s.t ∧
      (s.sub x = none → t.sub x = none)

/-- R107, R113, R181: a walk, however it ends, moves only its own cursor, forward, by at most 10 bits of
`sf` or 21 bits of `esc`. -/
def Obligations.WalkConsumptionBounded : Prop :=
  ∀ (s t : State) (c : Cursor), s.cfg.wf = true → c.pos ≤ c.len →
    (s.sf = some c → exec .walkSf s = .next t →
      t.esc = s.esc ∧ t.main = s.main ∧
        ∃ n, n ≤ 10 ∧ t.sf = some { c with pos := c.pos + n } ∧ c.pos + n ≤ c.len) ∧
    (s.esc = some c → exec .walkEsc s = .next t →
      t.sf = s.sf ∧ t.main = s.main ∧
        ∃ n, n ≤ 21 ∧ t.esc = some { c with pos := c.pos + n } ∧ c.pos + n ≤ c.len)

/-- R80, R110: `HUFF_SF` returns a primary value that is no escape marker as it is, without touching
`esc`; for a marker it adds or subtracts the escape value, and returns 99 when the escape lookup
does. When the bits run short it faults and returns nothing (spec decisions
D11, D12, D20). It does not write the delta register (R37). That the value it returns is kept in a field
of its own is the model's choice (log entry 20). -/
def Obligations.HuffSfComposesEscape : Prop :=
  ∀ s : State, s.cfg.wf = true →
    (∀ d s', HuffAt s d s' → exec .huffSf s = .next s' ∧ s'.huffValue = some d ∧ s'.t = s.t) ∧
    ∀ x, s.cfg.overrunPolicy = .fault → DeltaShort s x →
      ∃ t, exec .huffSf s = .next t ∧ t.fault = some (.cursorOverrun x.cursorId) ∧
        t.huffValue = s.huffValue ∧ t.t = s.t

/-! ### Forward Decoder -/

/-- R117, R35: `FWD_INIT` sets the baselines, the flag, the decoder state and the band pointer, and makes
every element of the output table `undef`; an index range that does not fit is refused (spec decision
D5), an unwritten input faults. -/
def Obligations.FwdInitStartsTheRun : Prop :=
  ∀ s : State,
    (s.numWindowGroups = none →
      exec .fwdInit s = .next { s with fault := some (.unwrittenRead .numWindowGroups) }) ∧
    ∀ groups : BitVec 4, s.numWindowGroups = some groups →
      (s.maxSfb = none → exec .fwdInit s = .next { s with fault := some (.unwrittenRead .maxSfb) }) ∧
      ∀ bands : BitVec 6, s.maxSfb = some bands →
        (groups.toNat ≤ s.cfg.maxGroups → bands.toNat ≤ s.cfg.maxSfb →
          (∀ gain, s.globalGain = some gain →
            exec .fwdInit s = .next { s with
              mem := { s.mem with scaleFactors := [] }
              scaleFactor := some gain
              isPosition := some 0
              noiseEnergy := some (gain - 90)
              noisePcmFlag := some true
              decState := some .normal
              pc := some ⟨0, 0⟩ }) ∧
          (s.globalGain = none →
            ∃ t, exec .fwdInit s = .next t ∧ t.fault = some (.unwrittenRead .globalGain))) ∧
        (s.cfg.maxGroups < groups.toNat ∨ s.cfg.maxSfb < bands.toNat →
          exec .fwdInit s = .next { s with refused := some .indexRange })

/-- R119, R120: `BAND.CONCEALED` and `BAND.ZERO` write 0 to the band's element and change nothing else. -/
def Obligations.ZeroFillBandsWriteZero : Prop :=
  ∀ (s : State) (p : BandPtr) (i : Instr), i = .bandConcealed ∨ i = .bandZero → AtElement s p →
    exec i s = .next (wrote s p 0)

/-- R121, R122: `BAND.INTENSITY` and `BAND.INTENSITY2` add the delta to the one baseline `is_position`
and write the sum, negative or not. -/
def Obligations.IntensityBandsShareBaseline : Prop :=
  ∀ (s s₁ : State) (p : BandPtr) (d old : Int) (i : Instr), i = .bandIntensity ∨ i = .bandIntensity2 →
    s.cfg.wf = true → AtElement s p → s.isPosition = some old → DeltaAt s d s₁ → d ≠ 99 →
    accFits s.cfg (old + d) = true →
    exec i s = .next (wrote { s₁ with isPosition := some (old + d) } p (old + d))

/-- R68, R123: the first NOISE band adds the header literal and consumes no bits; a literal that no parse
has written faults, and neither the baseline nor the element is written. The literal is `raw - 256` by
default, the two's-complement value of the 9 bits under the named alternative (spec decision D9), and the
listed value under a tabulated function (log entry 17). -/
def Obligations.FirstNoiseBandTakesLiteral : Prop :=
  (∀ (s : State) (p : BandPtr) (old : Int) (raw : BitVec 9), AtElement s p →
    s.noiseEnergy = some old → s.dpcmNoiseNrg = some raw →
    accFits s.cfg (old + noiseLiteralOf s.cfg.noiseLiteral raw) = true →
    exec .bandNoisePcm s = .next (wrote { s with
      noisePcmFlag := some false
      noiseEnergy := some (old + noiseLiteralOf s.cfg.noiseLiteral raw) } p
      (old + noiseLiteralOf s.cfg.noiseLiteral raw))) ∧
  (∀ (s : State) (old : Int), s.noiseEnergy = some old → s.dpcmNoiseNrg = none →
    ∃ t, exec .bandNoisePcm s = .next t ∧ t.fault = some (.unwrittenRead .dpcmNoiseNrg) ∧
      t.noiseEnergy = s.noiseEnergy ∧ t.mem = s.mem) ∧
  ∀ raw : BitVec 9,
    noiseLiteralOf .offsetBinary raw = (raw.toNat : Int) - 256 ∧
    noiseLiteralOf .twosComplement raw =
      (if raw.toNat < 256 then (raw.toNat : Int) else (raw.toNat : Int) - 512) ∧
    ∀ values : List Int, values.length = 512 →
      values[raw.toNat]? = some (noiseLiteralOf (.tabulated values) raw)

/-- R124: a later NOISE band adds a decoded delta to the noise baseline and writes the sum. -/
def Obligations.LaterNoiseBandAddsDelta : Prop :=
  ∀ (s s₁ : State) (p : BandPtr) (d old : Int), s.cfg.wf = true → AtElement s p →
    s.noiseEnergy = some old → DeltaAt s d s₁ → d ≠ 99 → accFits s.cfg (old + d) = true →
    exec .bandNoiseDpcm s = .next (wrote { s₁ with noiseEnergy := some (old + d) } p (old + d))

/-- R125, R148, R152: `BAND.BOOKSCL` aborts with code 3 and writes nothing else. That the baselines stay as
they are at an abort is the model's choice (log entry 23). -/
def Obligations.BooksclAborts : Prop :=
  ∀ s : State, exec .bandBookscl s =
    .next { s with decState := some (.aborted .invalidCodebook), result := some 3#8 }

/-- R126, R149, R152: `BAND.SPECTRAL` adds the delta to `scale_factor` and writes the sum when it is not
negative; a negative sum aborts with code 4 and the element is not written (spec decision
D35). That the baselines and the pointer hold their values at an abort is the model's choice (log entry
23). -/
def Obligations.SpectralBandAddsOrAborts : Prop :=
  ∀ (s s₁ : State) (cb : BitVec 4) (p : BandPtr) (d old : Int), s.cfg.wf = true → AtElement s p →
    s.scaleFactor = some old → DeltaAt s d s₁ → d ≠ 99 → accFits s.cfg (old + d) = true →
    (0 ≤ old + d →
      exec (.bandSpectral cb) s = .next (wrote { s₁ with scaleFactor := some (old + d) } p (old + d))) ∧
    (old + d < 0 →
      exec (.bandSpectral cb) s = .next { s₁ with
        scaleFactor := some (old + d)
        decState := some (.aborted .scaleFactorUnderflow)
        result := some 4#8 })

/-- R127, R157: a delta of 99 writes 0, conceals, and updates no baseline, in each of the four operations
that decode one; it is tested before the sum, so code 4 cannot follow from it (spec decision
D15). -/
def Obligations.NomatchDeltaConceals : Prop :=
  ∀ (s s₁ : State) (cb : BitVec 4) (p : BandPtr) (i : Instr),
    i = .bandIntensity ∨ i = .bandIntensity2 ∨ i = .bandNoiseDpcm ∨ i = .bandSpectral cb →
    s.cfg.wf = true → AtElement s p → DeltaAt s 99 s₁ →
    exec i s = .next { wrote s₁ p 0 with decState := some .concealed }

/-- R132: a new baseline that does not fit `ACC_W` bits is refused; no baseline and no element is
written (spec decision D7). -/
def Obligations.BaselineOverflowRefused : Prop :=
  ∀ (s s₁ : State) (cb : BitVec 4) (d old : Int) (raw : BitVec 9),
    (s.cfg.wf = true → DeltaAt s d s₁ → d ≠ 99 → accFits s.cfg (old + d) = false →
      (s.isPosition = some old →
        exec .bandIntensity s = .next { s₁ with refused := some .accOverflow } ∧
        exec .bandIntensity2 s = .next { s₁ with refused := some .accOverflow }) ∧
      (s.noiseEnergy = some old →
        exec .bandNoiseDpcm s = .next { s₁ with refused := some .accOverflow }) ∧
      (s.scaleFactor = some old →
        exec (.bandSpectral cb) s = .next { s₁ with refused := some .accOverflow })) ∧
    (s.noiseEnergy = some old → s.dpcmNoiseNrg = some raw →
      accFits s.cfg (old + noiseLiteralOf s.cfg.noiseLiteral raw) = false →
      exec .bandNoisePcm s =
        .next { s with noisePcmFlag := some false, refused := some .accOverflow })

/-- R157, R155: a delta whose bits run short ends the band under the default policy: the mark is set, and
no baseline, no element, no decoder state and no result is written (spec decision
D11). -/
def Obligations.WalkFaultEndsBand : Prop :=
  ∀ (s : State) (cb : BitVec 4) (i : Instr) (x : SubId),
    i = .bandIntensity ∨ i = .bandIntensity2 ∨ i = .bandNoiseDpcm ∨ i = .bandSpectral cb →
    s.cfg.wf = true → s.cfg.overrunPolicy = .fault → DeltaShort s x →
    ∃ t, exec i s = .next t ∧ t.fault = some (.cursorOverrun x.cursorId) ∧ t.mem = s.mem ∧
      t.scaleFactor = s.scaleFactor ∧ t.isPosition = s.isPosition ∧ t.noiseEnergy = s.noiseEnergy ∧
      t.decState = s.decState ∧ t.result = s.result ∧ t.pc = s.pc ∧ t.t = s.t

/-- R53: a band operation, however it ends, changes no element of `scale_factors` but its own. -/
def Obligations.BandOpsWriteOnlyTheirElement : Prop :=
  ∀ (i : Instr) (s t : State) (g sfb : Nat), bandOps i = true → exec i s = .next t →
    s.pc ≠ some ⟨g, sfb⟩ → element t g sfb = element s g sfb

/-- R37: the walker and decoder operations write neither `main` nor a header register, and hold or drop no
sub-cursor. Nor do they write the phase and `hdr_done`: the pseudocode of R106, R110, R117 and R119 to R127
writes neither, nor does the abort of R152, and the commands do (R139, R140). -/
def Obligations.DecoderOpsLeaveHeaderAlone : Prop :=
  ∀ (i : Instr) (s t : State), decoderOps i = true → exec i s = .next t →
    t.main = s.main ∧ SameHeader s t ∧ t.phase = s.phase ∧ t.hdrDone = s.hdrDone ∧
      t.sf.isSome = s.sf.isSome ∧ t.esc.isSome = s.esc.isSome

/-- R36, R60, R179: no operation writes the configuration, a context input, the codebook table or the
bits of `main`. -/
def Obligations.InputsAreNeverWritten : Prop :=
  ∀ (i : Instr) (s t : State), exec i s = .next t →
    SameInputs s t ∧ t.host = s.host ∧ t.main.map Cursor.buf = s.main.map Cursor.buf

/-! ### Commands -/

/-- R142: a command issued while the unit is not idle, and a `CMD_DEC` before any header, are refused
and do nothing else (spec decision D25). -/
def Obligations.CommandsRefusedWhenNotAcceptable : Prop :=
  ∀ s : State,
    (s.phase ≠ .idle → exec .cmdHdr s = .next { s with refused := some .commandWhileBusy } ∧
      exec .cmdDec s = .next { s with refused := some .commandWhileBusy }) ∧
    (s.phase = .idle → s.hdrDone = false →
      exec .cmdDec s = .next { s with refused := some .decodeBeforeHeader })

/-- R101, R140, R173: every accepted `CMD_DEC`, whatever happens in it, ends idle with both sub-cursors
released and the header registers as they were. On the paths that end in a fault this is the spec's
decision D35; that a fault or a refusal is a next state is log entry 2, and that a refusal too is followed
by `RELEASE` and `IDLE` is log entry 12. -/
def Obligations.CmdDecReleasesOnEveryPath : Prop :=
  ∀ s : State, s.phase = .idle → s.hdrDone = true →
    ∃ t, exec .cmdDec s = .next t ∧ t.phase = .idle ∧ t.sf = none ∧ t.esc = none ∧ SameHeader s t ∧
      t.hdrDone = true

/-- R47, R76, R100: a `CMD_DEC` whose segments are in the outer stream moves `main` by exactly the
declared lengths, whatever its result and even if it is stopped later; and under the default policy one
that does not fault had them. -/
def Obligations.CmdDecKeepsOuterStreamInStep : Prop :=
  ∀ (s t : State) (c : Cursor) (len : BitVec 11) (present : Bool) (lenEsc : BitVec 8),
    s.phase = .idle → s.hdrDone = true → s.main = some c → s.lengthOfRvlcSf = some len →
    s.sfEscapesPresent = some present → (present = true → s.lengthOfRvlcEscapes = some lenEsc) →
    exec .cmdDec s = .next t →
    (c.pos + declaredBits len present lenEsc ≤ c.len ∨
      s.cfg.overrunPolicy = .fault ∧ t.fault = none) →
    t.main = some { c with pos := c.pos + declaredBits len present lenEsc }

/-- R129, R146, R152: an unmarked `CMD_DEC` ends with result 0 in state NORMAL or CONCEALED, or with the
code of its abort. -/
def Obligations.CmdDecResultMatchesState : Prop :=
  ∀ s t : State, s.phase = .idle → s.hdrDone = true → exec .cmdDec s = .next t → t.marked = false →
    ((t.decState = some .normal ∨ t.decState = some .concealed) ∧ t.result = some 0#8) ∨
    (t.decState = some (.aborted .invalidCodebook) ∧ t.result = some 3#8) ∨
    (t.decState = some (.aborted .scaleFactorUnderflow) ∧ t.result = some 4#8)

/-- R119, R127, R133, R135: what a finished run leaves. Elements outside the range are `undef` in every
case. Result 0: every element in range is defined. Concealed: the result is 0, there is a band at which
the run entered concealment, the elements before it hold what the bands before it wrote, and it and every
later one hold 0. Result 3 or 4: exactly the elements before the failing band are defined. That `pc` still
names the failing band after the abort is the model's choice (log entry 23). -/
def Obligations.CmdDecOutputTable : Prop :=
  ∀ s t : State, s.phase = .idle → s.hdrDone = true → exec .cmdDec s = .next t → t.marked = false →
    (∀ g sfb, ¬ InRange s g sfb → element t g sfb = none) ∧
    (t.result = some 0#8 → ∀ g sfb, InRange s g sfb → (element t g sfb).isSome = true) ∧
    (t.decState = some .concealed → t.result = some 0#8 ∧ ∃ p u, ConcealsAt s p u ∧ InRange s p.g p.sfb ∧
      ∀ g sfb, InRange s g sfb →
        element t g sfb = if keyLt (g, sfb) (p.g, p.sfb) then element u g sfb else some 0) ∧
    (t.result ≠ some 0#8 → ∃ p : BandPtr, t.pc = some p ∧ InRange s p.g p.sfb ∧
      ∀ g sfb, InRange s g sfb → ((element t g sfb).isSome = true ↔ keyLt (g, sfb) (p.g, p.sfb) = true))

/-- R120, R129, R140 (and R128 for `max_sfb = 0`): a frame whose bands are all ZERO decodes to zeros with
result 0, whatever its segments hold; nothing of them is read. -/
def Obligations.CmdDecOfZeroBandsCompletes : Prop :=
  ∀ (s : State) (c : Cursor) (len : BitVec 11) (present : Bool) (lenEsc : BitVec 8) (groups : BitVec 4)
    (bands : BitVec 6) (gain : Int), Launch s c len present lenEsc groups bands gain →
    (∀ g sfb, InRange s g sfb → cellRead g sfb s.mem.sfbCb = some 0#4) →
    ∃ t, exec .cmdDec s = .next t ∧ t.marked = false ∧ t.phase = .idle ∧ t.result = some 0#8 ∧
      t.decState = some .normal ∧ t.main = some { c with pos := c.pos + declaredBits len present lenEsc } ∧
      t.scaleFactor = some gain ∧ t.isPosition = some 0 ∧ t.noiseEnergy = some (gain - 90) ∧
      (∀ g sfb, InRange s g sfb → element t g sfb = some 0) ∧
      ∀ g sfb, ¬ InRange s g sfb → element t g sfb = none

/-- R125, R133, R148: an INVALID band after ZERO bands returns code 3 at once; the bands before it hold 0,
it and every later one are `undef`, not zero-filled. That `pc` still names that band is the model's choice
(log entry 23). -/
def Obligations.CmdDecStopsAtInvalidBand : Prop :=
  ∀ (s : State) (c : Cursor) (len : BitVec 11) (present : Bool) (lenEsc : BitVec 8) (groups : BitVec 4)
    (bands : BitVec 6) (gain : Int) (p : BandPtr), Launch s c len present lenEsc groups bands gain →
    InRange s p.g p.sfb → cellRead p.g p.sfb s.mem.sfbCb = some 12#4 →
    (∀ g sfb, InRange s g sfb → keyLt (g, sfb) (p.g, p.sfb) = true →
      cellRead g sfb s.mem.sfbCb = some 0#4) →
    ∃ t, exec .cmdDec s = .next t ∧ t.marked = false ∧ t.phase = .idle ∧ t.result = some 3#8 ∧
      t.decState = some (.aborted .invalidCodebook) ∧ t.pc = some p ∧
      t.main = some { c with pos := c.pos + declaredBits len present lenEsc } ∧
      (∀ g sfb, InRange s g sfb → keyLt (g, sfb) (p.g, p.sfb) = true → element t g sfb = some 0) ∧
      ∀ g sfb, keyLt (g, sfb) (p.g, p.sfb) = false → element t g sfb = none

/-- R132: with `ACC_W = 16`, at most 408 bands, the offset-binary literal, a gain of 0 to 255 and a table
set whose deltas lie within 60, no `CMD_DEC` is refused for an overflow. -/
def Obligations.DefaultWidthsNeverOverflow : Prop :=
  ∀ (s t : State) (gain : Int), s.phase = .idle → s.hdrDone = true → s.marked = false →
    s.cfg.wf = true → s.cfg.accW = 16 → s.cfg.maxGroups * s.cfg.maxSfb ≤ 408 →
    s.cfg.noiseLiteral = .offsetBinary → s.globalGain = some gain → 0 ≤ gain → gain ≤ 255 →
    (∀ e ∈ s.cfg.tSf.entries, e.val = 99 ∨ -60 ≤ e.val ∧ e.val ≤ 60) →
    (∀ e ∈ s.cfg.tEsc.entries, e.val = 99 ∨ e.val + s.cfg.escVal ≤ 60) →
    exec .cmdDec s = .next t → t.refused ≠ some .accOverflow

/-! ### Steps -/

/-- R85, R116, R118, R136, R145: a step runs the operation that the decoder reads from what stands
there, and then goes on (`continueWith`). For a band that is the codebook word at the band pointer, for
a header field its bits, for a command its bit. A command issued whole is run as it is; one issued as a
sequence of micro-operations is begun (`beginCommand`). The slots and the ways of issuing a command are
the model's (log entries 6, 10 and 11), the codebook numbers the spec's decision D4. -/
def Obligations.StepRunsDecodedOperation : Prop :=
  ∀ (s : State) (i : Instr),
    (∀ (d : DecState) (p : BandPtr) (cb : BitVec 4) (f : Bool), Quiet s → s.phase = .decode .band →
      s.decState = some d → s.pc = some p → cellRead p.g p.sfb s.mem.sfbCb = some cb →
      s.noisePcmFlag = some f → decode (.band d f) (bitsOf 4 cb.toNat) = .instr i →
      step s = continueWith (exec i s)) ∧
    (∀ (f : HdrStep) (short : Bool) (w : Bits), Quiet s → s.phase = .hdr f →
      s.isEightShort = some short → decode (.header f short) w = .instr i →
      step s = continueWith (exec i s)) ∧
    (Quiet s → (s.phase = .carve .sf ∧ i = .carveSf ∨ s.phase = .carve .esc ∧ i = .carveEsc ∨
        s.phase = .decode .init ∧ i = .fwdInit ∨ s.phase = .release ∧ i = .release) →
      step s = continueWith (exec i s)) ∧
    ∀ (w : BitVec 1) (how : Issue) (rest : List HostOp), s.marked = false → s.phase = .idle →
      s.host = .command w how :: rest → decode .command (bitsOf 1 w.toNat) = .instr i →
      (how ≠ .stepped → step s = exec i { s with host := rest }) ∧
      (how = .stepped → step s = .next (beginCommand i { s with host := rest }))

/-- R119, decision D16: in state CONCEALED the band is zero-filled without reading its codebook, even
one that is INVALID or unwritten. -/
def Obligations.ConcealedBandIgnoresCodebook : Prop :=
  ∀ (s : State) (p : BandPtr), Quiet s → s.phase = .decode .band → s.decState = some .concealed →
    AtElement s p → step s = continueWith (.next (wrote s p 0))

/-- R52, R14: in state NORMAL a band whose codebook element is unwritten faults (spec decision D22). -/
def Obligations.UnwrittenCodebookFaults : Prop :=
  ∀ (s : State) (p : BandPtr), Quiet s → s.phase = .decode .band → s.decState = some .normal →
    s.pc = some p → cellRead p.g p.sfb s.mem.sfbCb = none →
    step s = .next { s with fault := some (.unwrittenRead (.sfbCb p.g p.sfb)) }

/-- R128, R129, R152: after a band the pointer advances group-major, band-minor; after the last band the
run ends with result 0; after an abort the pointer stays and `RELEASE` is next. -/
def Obligations.BandPointerAdvances : Prop :=
  ∀ (s : State) (p : BandPtr) (groups : BitVec 4) (bands : BitVec 6), s.marked = false →
    s.phase = .decode .band → s.pc = some p → s.numWindowGroups = some groups → s.maxSfb = some bands →
    p.g < groups.toNat →
    (s.aborted = true → continueWith (.next s) = .next { s with phase := .release }) ∧
    (s.aborted = false → p.sfb + 1 < bands.toNat →
      continueWith (.next s) = .next { s with pc := some ⟨p.g, p.sfb + 1⟩ }) ∧
    (s.aborted = false → bands.toNat = p.sfb + 1 → p.g + 1 < groups.toNat →
      continueWith (.next s) = .next { s with pc := some ⟨p.g + 1, 0⟩ }) ∧
    (s.aborted = false → bands.toNat = p.sfb + 1 → groups.toNat = p.g + 1 →
      continueWith (.next s) =
        .next { s with pc := some ⟨p.g + 1, 0⟩, result := some 0#8, phase := .release })

/-- R85, R116, R128, R139, R140: the order of the micro-operations of both commands, from the first to
the last. After `FWD_INIT` comes the first band; with no groups or no bands the run ends with result 0,
with `g` set to `num_window_groups` (R116). What follows a band is `BandPointerAdvances`. That a command
is a sequence of steps, and the positions inside a phase, are the model's (log entries 10 and 6). -/
def Obligations.MicroOperationOrder : Prop :=
  ∀ (s : State) (noise present : Bool) (groups : BitVec 4) (bands : BitVec 6), s.marked = false →
    s.noiseUsed = some noise → s.sfEscapesPresent = some present → s.numWindowGroups = some groups →
    s.maxSfb = some bands →
    let next := fun ph => Host.Outcome.next (φ := Fault) (ρ := Refusal) { s with phase := ph }
    let endOfHeader := Host.Outcome.next (φ := Fault) (ρ := Refusal)
      { s with result := some 0#8, hdrDone := true, phase := .idle }
    (s.phase = .idle → beginCommand .cmdHdr s = { s with phase := .hdr .sfc } ∧
      (s.hdrDone = true → beginCommand .cmdDec s = { s with phase := .carve .sf }) ∧
      (s.hdrDone = false →
        beginCommand .cmdDec s = { s with refused := some .decodeBeforeHeader })) ∧
    (s.phase = .hdr .sfc → continueWith (.next s) = next (.hdr .rgg)) ∧
    (s.phase = .hdr .rgg → continueWith (.next s) = next (.hdr .lenSf)) ∧
    (s.phase = .hdr .lenSf →
      continueWith (.next s) = next (.hdr (if noise then .noiseNrg else .escPresent))) ∧
    (s.phase = .hdr .noiseNrg → continueWith (.next s) = next (.hdr .escPresent)) ∧
    (s.phase = .hdr .escPresent → continueWith (.next s) =
      if present then next (.hdr .lenEsc) else if noise then next (.hdr .noiseLastpos) else endOfHeader) ∧
    (s.phase = .hdr .lenEsc → continueWith (.next s) =
      if noise then next (.hdr .noiseLastpos) else endOfHeader) ∧
    (s.phase = .hdr .noiseLastpos → continueWith (.next s) = endOfHeader) ∧
    (s.phase = .carve .sf → continueWith (.next s) = next (.carve .esc)) ∧
    (s.phase = .carve .esc → continueWith (.next s) = next (.decode .init)) ∧
    (s.phase = .decode .init → s.pc = some ⟨0, 0⟩ → continueWith (.next s) =
      if groups.toNat ≠ 0 ∧ bands.toNat ≠ 0 then next (.decode .band)
      else Host.Outcome.next
        { s with pc := some ⟨groups.toNat, 0⟩, result := some 0#8, phase := .release }) ∧
    (s.phase = .release → continueWith (.next s) = next .idle)

/-- R29, R101, R155, R156: a mark is sticky. A marked state with a `CMD_DEC` in progress only runs
`RELEASE`; any other stops with its mark. R155 gives the `RELEASE` after a fault (spec decision D35). The
rest is the model's: that a mark is a next state, and what the step after it answers, is log entry 2; the
`RELEASE` and `IDLE` after a refusal inside a `CMD_DEC` are log entry 12; and that the refusal
`CommandWhileBusy` ends the running command is log entry 21. -/
def Obligations.MarkedStateOnlyReleases : Prop :=
  ∀ s : State, s.marked = true →
    (s.phase.inDec = true → step s = .next { s with sf := none, esc := none, phase := .idle }) ∧
    (s.phase.inDec = false →
      (∀ r, s.fault = some r → step s = .fault r) ∧
      (∀ r, s.fault = none → s.refused = some r → step s = .refused r))

/-- R136: an idle unit waits; R142: a command that the host issues in another phase is refused. That the host's acts
stand in the state is the model's choice (log entry 6). -/
def Obligations.IdleWaitsAndBusyRefuses : Prop :=
  ∀ s : State, s.marked = false →
    (s.phase = .idle → s.host = [] → step s = .next s) ∧
    (∀ w rest, s.phase ≠ .idle → s.host = .command w .unguarded :: rest →
      step s = .next { s with host := rest, refused := some .commandWhileBusy })

/-- R137, R138, R141: the host's acts, in phase `IDLE` only. There it loads each context input, binds
`main` at a position inside a bit string or inside the first bits of a byte buffer, and reads the result,
every header register, `main.pos` and the output table, an `undef` as an absent value (log entry 22). In another phase an act that waits stays waiting,
what it would write stays as it is, and nothing can be read. That the acts wait in the state is the
model's choice (log entry 6), and so is the refusal of an act outside the ranges of R137 and R138 (log
entry 9). -/
def Obligations.HostActsOnlyWhenIdle : Prop :=
  ∀ (s : State) (rest : List HostOp), s.marked = false →
    (s.phase = .idle →
      (∀ v, s.host = .loadIsEightShort v :: rest →
        step s = .next { s with host := rest, isEightShort := some v }) ∧
      (∀ v, s.host = .loadNoiseUsed v :: rest →
        step s = .next { s with host := rest, noiseUsed := some v }) ∧
      (∀ v, s.host = .loadNumWindowGroups v :: rest →
        step s = .next { s with host := rest, numWindowGroups := some v }) ∧
      (∀ v, s.host = .loadMaxSfb v :: rest → step s = .next { s with host := rest, maxSfb := some v }) ∧
      (∀ v, s.host = .loadGlobalGain v :: rest →
        step s = .next { s with host := rest, globalGain := some v }) ∧
      (∀ g sfb v, s.host = .loadSfbCb g sfb v :: rest →
        (elementExists s.cfg g sfb = true →
          ∃ m, step s = .next { s with host := rest, mem := { s.mem with sfbCb := m } } ∧
            cellRead g sfb m = some v ∧
            ∀ g' sfb', (g', sfb') ≠ (g, sfb) → cellRead g' sfb' m = cellRead g' sfb' s.mem.sfbCb) ∧
        (elementExists s.cfg g sfb = false →
          step s = .next { s with host := rest, refused := some .noSuchElement })) ∧
      (∀ buf pos, s.host = .bind buf pos :: rest →
        (pos ≤ buf.length → step s = .next { s with host := rest, main := some ⟨buf, pos⟩ }) ∧
        (buf.length < pos → step s = .next { s with host := rest, refused := some .bindOutOfRange })) ∧
      (∀ bytes len pos, s.host = .bindBytes bytes len pos :: rest →
        (pos ≤ len → len ≤ 8 * bytes.length →
          step s = .next { s with host := rest, main := some ⟨bitsOfBytes bytes len, pos⟩ }) ∧
        (len < pos ∨ 8 * bytes.length < len →
          step s = .next { s with host := rest, refused := some .bindOutOfRange })) ∧
      hostRead s = some
        { result := s.result
          sfConcealment := s.sfConcealment
          revGlobalGain := s.revGlobalGain
          lengthOfRvlcSf := s.lengthOfRvlcSf
          dpcmNoiseNrg := s.dpcmNoiseNrg
          sfEscapesPresent := s.sfEscapesPresent
          lengthOfRvlcEscapes := s.lengthOfRvlcEscapes
          dpcmNoiseLastPosition := s.dpcmNoiseLastPosition
          mainPos := s.main.map Cursor.pos
          scaleFactors := s.mem.scaleFactors }) ∧
    (s.phase ≠ .idle → hostRead s = none ∧
      ((∀ w rest', s.host ≠ .command w .unguarded :: rest') →
        ∃ t, step s = .next t ∧ t.host = s.host ∧ SameInputs s t ∧
          t.main.map Cursor.buf = s.main.map Cursor.buf))

/-- R34, R167: the power-on state of an instance with any configuration (the spec's own choice, its decision D24). -/
def Obligations.ResetState : Prop :=
  ∀ c : Config, let s := State.resetWith c
    s.phase = .idle ∧ s.hdrDone = false ∧ s.sf = none ∧ s.esc = none ∧ s.fault = none ∧
      s.refused = none ∧ s.main = none ∧ s.isEightShort = none ∧ s.noiseUsed = none ∧
      s.numWindowGroups = none ∧ s.maxSfb = none ∧ s.globalGain = none ∧ s.sfConcealment = none ∧
      s.revGlobalGain = none ∧ s.lengthOfRvlcSf = none ∧ s.dpcmNoiseNrg = none ∧
      s.sfEscapesPresent = none ∧ s.lengthOfRvlcEscapes = none ∧ s.dpcmNoiseLastPosition = none ∧
      s.pc = none ∧ s.scaleFactor = none ∧ s.isPosition = none ∧ s.noiseEnergy = none ∧ s.t = none ∧
      s.walker = Walker.undef ∧ s.noisePcmFlag = none ∧ s.decState = none ∧ s.result = none ∧
      (∀ g sfb, cellRead g sfb s.mem.sfbCb = none) ∧ ∀ g sfb, element s g sfb = none

/-- The invariant holds right after reset, with any configuration. -/
def Obligations.InvariantAtReset : Prop :=
  ∀ c : Config, (State.resetWith c).inv = true

/-- R6, R20, R21, R24, R28, R39, R53, R96, R101: every step keeps the invariant, from every state that
meets it. `State.inv` is the model's reading of these rules (log entry 7 for the cursors). -/
def Obligations.StepKeepsInvariant : Prop :=
  ∀ s s' : State, s.inv = true → step s = .next s' → s'.inv = true

/-- R145, R183: `CMD_HDR` as a sequence of at most seven micro-operations ends in exactly the state of the
atomic command, whatever happens in it. The step sequence is the model's (log entry 10). -/
def Obligations.SteppedCmdHdrIsAtomic : Prop :=
  ∀ s : State, s.phase = .idle → s.marked = false → s.host = [] →
    ∃ n, n ≤ 7 ∧ Host.Core.run Sys2Proof.core n (beginCommand .cmdHdr s) = exec .cmdHdr s

/-- R145, R182, R183: `CMD_DEC` as a sequence of micro-operations, at most one for each band and four more,
ends in exactly the state of the atomic command, whatever happens in it. The step sequence is the model's (log entry 10). -/
def Obligations.SteppedCmdDecIsAtomic : Prop :=
  ∀ s : State, s.phase = .idle → s.marked = false → s.host = [] → s.hdrDone = true →
    ∃ n, n ≤ (s.numWindowGroups.getD 0#4).toNat * (s.maxSfb.getD 0#6).toNat + 4 ∧
      Host.Core.run Sys2Proof.core n (beginCommand .cmdDec s) = exec .cmdDec s

/-! ### Encoding -/

/-- R69, R70, R83, R84: the decoder reads a well-formed operation back from its word, a header word is
decoded whatever its data bits, and a word of another width is rejected. The slots, and the rejection
of a word that has not its slot's width, are the model's (log entry 11). -/
def Obligations.DecodeReadsEncodedOperation : Prop :=
  (∀ i : Instr, i.wf = true → decode i.slot (encode i) = .instr i) ∧
  (∀ (f : HdrStep) (short : Bool) (w : Bits), w.length = f.width short →
    decode (.header f short) w = .instr (headerOp short f)) ∧
  ∀ (sl : Slot) (w : Bits), w.length ≠ sl.width → decode sl w = .rejected (.wrongWidth sl.width)

/-- R69, R83, R118, R119: words written out from the spec's tables decode to the operations they stand
for, and in state CONCEALED every band's word decodes to `BAND.CONCEALED`, whatever it is and whatever the
flag `noise_pcm_flag` holds (spec decision D16, log entry 15). The slots are the model's (log entry 11), the numbers the spec's decisions D2 and D4. -/
def Obligations.TableWordsDecode : Prop :=
  decode (.band .normal true) [false, false, false, false] = .instr .bandZero ∧
  decode (.band .normal true) [true, true, true, true] = .instr .bandIntensity ∧
  decode (.band .normal true) [true, true, true, false] = .instr .bandIntensity2 ∧
  decode (.band .normal true) [true, true, false, true] = .instr .bandNoisePcm ∧
  decode (.band .normal false) [true, true, false, true] = .instr .bandNoiseDpcm ∧
  decode (.band .normal true) [true, true, false, false] = .instr .bandBookscl ∧
  decode (.band .normal true) [true, false, true, true] = .instr (.bandSpectral 11#4) ∧
  (∀ (flag : Bool) (w : Bits), w.length = 4 → decode (.band .concealed flag) w = .instr .bandConcealed) ∧
  decode .command [false] = .instr .cmdHdr ∧
  decode .command [true] = .instr .cmdDec
end

