-- ==== Sys2Proof/Laws/Bits.lean ====
section
/-!
SUPPORT. Bit strings and their values (R7): lengths, values of joined strings, and that `bitsOf` and
`bitsVal` undo each other.
-/

namespace Sys2Proof

@[simp] theorem bitsOf_length (n v : Nat) : (bitsOf n v).length = n := by
  induction n with
  | zero => rfl
  | succ n ih => simp [bitsOf, ih]

theorem bitsVal_foldl (b : Bits) (a : Nat) :
    b.foldl (fun a x => 2 * a + x.toNat) a = a * 2 ^ b.length + bitsVal b := by
  unfold bitsVal
  induction b generalizing a with
  | nil => simp
  | cons x b ih =>
    simp only [List.foldl_cons, List.length_cons]
    rw [ih, ih (2 * 0 + x.toNat)]
    ring

/-- The value of two bit strings read as one (R41). -/
theorem bitsVal_append (a b : Bits) : bitsVal (a ++ b) = bitsVal a * 2 ^ b.length + bitsVal b := by
  conv_lhs => unfold bitsVal
  rw [List.foldl_append, bitsVal_foldl]
  rfl

theorem bitsVal_cons (x : Bool) (b : Bits) :
    bitsVal (x :: b) = x.toNat * 2 ^ b.length + bitsVal b := by
  simpa [bitsVal] using bitsVal_append [x] b

theorem bitsVal_lt (b : Bits) : bitsVal b < 2 ^ b.length := by
  induction b with
  | nil => simp [bitsVal]
  | cons x b ih =>
    rw [bitsVal_cons, List.length_cons, pow_succ]
    cases x <;> simp <;> omega

/-- The `n` bits of a number have its value modulo `2^n`. -/
theorem bitsVal_bitsOf (n v : Nat) : bitsVal (bitsOf n v) = v % 2 ^ n := by
  induction n with
  | zero => simp [bitsOf, bitsVal]; omega
  | succ n ih =>
    rw [bitsOf, bitsVal_cons, bitsOf_length, ih, Nat.pow_succ, Nat.mod_mul, Nat.testBit,
      Nat.shiftRight_eq_div_pow]
    rcases Nat.mod_two_eq_zero_or_one (v / 2 ^ n) with h | h <;> simp [h] <;> ring

/-- A bit string is the bits of its value. -/
theorem bitsOf_bitsVal (b : Bits) : bitsOf b.length (bitsVal b) = b := by
  induction b with
  | nil => rfl
  | cons x b ih =>
    have hb : ∀ n a v, v < 2 ^ n → n = b.length → bitsOf n (a * 2 ^ n + v) = bitsOf n v := by
      intro n a v _ _
      have : ∀ m, m ≤ n → bitsOf m (a * 2 ^ n + v) = bitsOf m v := by
        intro m hm
        induction m with
        | zero => rfl
        | succ m ihm =>
          rw [bitsOf, bitsOf, ihm (by omega)]
          congr 1
          rw [mul_comm, Nat.testBit_two_pow_mul_add _ (by assumption)]
          simp [show m < n by omega]
      exact this n (le_refl _)
    rw [List.length_cons, bitsOf, bitsVal_cons, hb _ _ _ (bitsVal_lt b) rfl, ih]
    congr 1
    rw [mul_comm, Nat.testBit_two_pow_mul_add _ (bitsVal_lt b)]
    cases x <;> simp

end Sys2Proof

namespace Sys2Proof.Machine

/-- `MemRead` of the bits that stand at the address (R40). -/
theorem memRead_at (pre b post : Bits) :
    memRead (pre ++ b ++ post) pre.length b.length = bitsVal b := by
  simp [memRead]

end Sys2Proof.Machine
end

