-- ==== Sys2Proof/Laws/State.lean ====
section
/-!
SUPPORT. One lemma per field per named update of the state: `raiseFault`, `refuse`, `abort`, `dispose`,
`leaveDec`, `endHdr` and `moveSub`.
-/

namespace Sys2Proof.Machine

@[simp] theorem State.raiseFault_cfg (s : State) (r : Fault) : (s.raiseFault r).cfg = s.cfg := rfl
@[simp] theorem State.raiseFault_host (s : State) (r : Fault) : (s.raiseFault r).host = s.host := rfl
@[simp] theorem State.raiseFault_main (s : State) (r : Fault) : (s.raiseFault r).main = s.main := rfl
@[simp] theorem State.raiseFault_isEightShort (s : State) (r : Fault) : (s.raiseFault r).isEightShort = s.isEightShort := rfl
@[simp] theorem State.raiseFault_noiseUsed (s : State) (r : Fault) : (s.raiseFault r).noiseUsed = s.noiseUsed := rfl
@[simp] theorem State.raiseFault_numWindowGroups (s : State) (r : Fault) : (s.raiseFault r).numWindowGroups = s.numWindowGroups := rfl
@[simp] theorem State.raiseFault_maxSfb (s : State) (r : Fault) : (s.raiseFault r).maxSfb = s.maxSfb := rfl
@[simp] theorem State.raiseFault_globalGain (s : State) (r : Fault) : (s.raiseFault r).globalGain = s.globalGain := rfl
@[simp] theorem State.raiseFault_sfConcealment (s : State) (r : Fault) : (s.raiseFault r).sfConcealment = s.sfConcealment := rfl
@[simp] theorem State.raiseFault_revGlobalGain (s : State) (r : Fault) : (s.raiseFault r).revGlobalGain = s.revGlobalGain := rfl
@[simp] theorem State.raiseFault_lengthOfRvlcSf (s : State) (r : Fault) : (s.raiseFault r).lengthOfRvlcSf = s.lengthOfRvlcSf := rfl
@[simp] theorem State.raiseFault_dpcmNoiseNrg (s : State) (r : Fault) : (s.raiseFault r).dpcmNoiseNrg = s.dpcmNoiseNrg := rfl
@[simp] theorem State.raiseFault_sfEscapesPresent (s : State) (r : Fault) : (s.raiseFault r).sfEscapesPresent = s.sfEscapesPresent := rfl
@[simp] theorem State.raiseFault_lengthOfRvlcEscapes (s : State) (r : Fault) : (s.raiseFault r).lengthOfRvlcEscapes = s.lengthOfRvlcEscapes := rfl
@[simp] theorem State.raiseFault_dpcmNoiseLastPosition (s : State) (r : Fault) : (s.raiseFault r).dpcmNoiseLastPosition = s.dpcmNoiseLastPosition := rfl
@[simp] theorem State.raiseFault_sf (s : State) (r : Fault) : (s.raiseFault r).sf = s.sf := rfl
@[simp] theorem State.raiseFault_esc (s : State) (r : Fault) : (s.raiseFault r).esc = s.esc := rfl
@[simp] theorem State.raiseFault_pc (s : State) (r : Fault) : (s.raiseFault r).pc = s.pc := rfl
@[simp] theorem State.raiseFault_scaleFactor (s : State) (r : Fault) : (s.raiseFault r).scaleFactor = s.scaleFactor := rfl
@[simp] theorem State.raiseFault_isPosition (s : State) (r : Fault) : (s.raiseFault r).isPosition = s.isPosition := rfl
@[simp] theorem State.raiseFault_noiseEnergy (s : State) (r : Fault) : (s.raiseFault r).noiseEnergy = s.noiseEnergy := rfl
@[simp] theorem State.raiseFault_t (s : State) (r : Fault) : (s.raiseFault r).t = s.t := rfl
@[simp] theorem State.raiseFault_walker (s : State) (r : Fault) : (s.raiseFault r).walker = s.walker := rfl
@[simp] theorem State.raiseFault_walkValue (s : State) (r : Fault) : (s.raiseFault r).walkValue = s.walkValue := rfl
@[simp] theorem State.raiseFault_huffValue (s : State) (r : Fault) : (s.raiseFault r).huffValue = s.huffValue := rfl
@[simp] theorem State.raiseFault_noisePcmFlag (s : State) (r : Fault) : (s.raiseFault r).noisePcmFlag = s.noisePcmFlag := rfl
@[simp] theorem State.raiseFault_decState (s : State) (r : Fault) : (s.raiseFault r).decState = s.decState := rfl
@[simp] theorem State.raiseFault_phase (s : State) (r : Fault) : (s.raiseFault r).phase = s.phase := rfl
@[simp] theorem State.raiseFault_hdrDone (s : State) (r : Fault) : (s.raiseFault r).hdrDone = s.hdrDone := rfl
@[simp] theorem State.raiseFault_result (s : State) (r : Fault) : (s.raiseFault r).result = s.result := rfl
@[simp] theorem State.raiseFault_fault (s : State) (r : Fault) : (s.raiseFault r).fault = some r := rfl
@[simp] theorem State.raiseFault_refused (s : State) (r : Fault) : (s.raiseFault r).refused = s.refused := rfl
@[simp] theorem State.raiseFault_mem (s : State) (r : Fault) : (s.raiseFault r).mem = s.mem := rfl

@[simp] theorem State.refuse_cfg (s : State) (r : Refusal) : (s.refuse r).cfg = s.cfg := rfl
@[simp] theorem State.refuse_host (s : State) (r : Refusal) : (s.refuse r).host = s.host := rfl
@[simp] theorem State.refuse_main (s : State) (r : Refusal) : (s.refuse r).main = s.main := rfl
@[simp] theorem State.refuse_isEightShort (s : State) (r : Refusal) : (s.refuse r).isEightShort = s.isEightShort := rfl
@[simp] theorem State.refuse_noiseUsed (s : State) (r : Refusal) : (s.refuse r).noiseUsed = s.noiseUsed := rfl
@[simp] theorem State.refuse_numWindowGroups (s : State) (r : Refusal) : (s.refuse r).numWindowGroups = s.numWindowGroups := rfl
@[simp] theorem State.refuse_maxSfb (s : State) (r : Refusal) : (s.refuse r).maxSfb = s.maxSfb := rfl
@[simp] theorem State.refuse_globalGain (s : State) (r : Refusal) : (s.refuse r).globalGain = s.globalGain := rfl
@[simp] theorem State.refuse_sfConcealment (s : State) (r : Refusal) : (s.refuse r).sfConcealment = s.sfConcealment := rfl
@[simp] theorem State.refuse_revGlobalGain (s : State) (r : Refusal) : (s.refuse r).revGlobalGain = s.revGlobalGain := rfl
@[simp] theorem State.refuse_lengthOfRvlcSf (s : State) (r : Refusal) : (s.refuse r).lengthOfRvlcSf = s.lengthOfRvlcSf := rfl
@[simp] theorem State.refuse_dpcmNoiseNrg (s : State) (r : Refusal) : (s.refuse r).dpcmNoiseNrg = s.dpcmNoiseNrg := rfl
@[simp] theorem State.refuse_sfEscapesPresent (s : State) (r : Refusal) : (s.refuse r).sfEscapesPresent = s.sfEscapesPresent := rfl
@[simp] theorem State.refuse_lengthOfRvlcEscapes (s : State) (r : Refusal) : (s.refuse r).lengthOfRvlcEscapes = s.lengthOfRvlcEscapes := rfl
@[simp] theorem State.refuse_dpcmNoiseLastPosition (s : State) (r : Refusal) : (s.refuse r).dpcmNoiseLastPosition = s.dpcmNoiseLastPosition := rfl
@[simp] theorem State.refuse_sf (s : State) (r : Refusal) : (s.refuse r).sf = s.sf := rfl
@[simp] theorem State.refuse_esc (s : State) (r : Refusal) : (s.refuse r).esc = s.esc := rfl
@[simp] theorem State.refuse_pc (s : State) (r : Refusal) : (s.refuse r).pc = s.pc := rfl
@[simp] theorem State.refuse_scaleFactor (s : State) (r : Refusal) : (s.refuse r).scaleFactor = s.scaleFactor := rfl
@[simp] theorem State.refuse_isPosition (s : State) (r : Refusal) : (s.refuse r).isPosition = s.isPosition := rfl
@[simp] theorem State.refuse_noiseEnergy (s : State) (r : Refusal) : (s.refuse r).noiseEnergy = s.noiseEnergy := rfl
@[simp] theorem State.refuse_t (s : State) (r : Refusal) : (s.refuse r).t = s.t := rfl
@[simp] theorem State.refuse_walker (s : State) (r : Refusal) : (s.refuse r).walker = s.walker := rfl
@[simp] theorem State.refuse_walkValue (s : State) (r : Refusal) : (s.refuse r).walkValue = s.walkValue := rfl
@[simp] theorem State.refuse_huffValue (s : State) (r : Refusal) : (s.refuse r).huffValue = s.huffValue := rfl
@[simp] theorem State.refuse_noisePcmFlag (s : State) (r : Refusal) : (s.refuse r).noisePcmFlag = s.noisePcmFlag := rfl
@[simp] theorem State.refuse_decState (s : State) (r : Refusal) : (s.refuse r).decState = s.decState := rfl
@[simp] theorem State.refuse_phase (s : State) (r : Refusal) : (s.refuse r).phase = s.phase := rfl
@[simp] theorem State.refuse_hdrDone (s : State) (r : Refusal) : (s.refuse r).hdrDone = s.hdrDone := rfl
@[simp] theorem State.refuse_result (s : State) (r : Refusal) : (s.refuse r).result = s.result := rfl
@[simp] theorem State.refuse_fault (s : State) (r : Refusal) : (s.refuse r).fault = s.fault := rfl
@[simp] theorem State.refuse_refused (s : State) (r : Refusal) : (s.refuse r).refused = some r := rfl
@[simp] theorem State.refuse_mem (s : State) (r : Refusal) : (s.refuse r).mem = s.mem := rfl

@[simp] theorem State.abort_cfg (s : State) (c : AbortCode) : (s.abort c).cfg = s.cfg := rfl
@[simp] theorem State.abort_host (s : State) (c : AbortCode) : (s.abort c).host = s.host := rfl
@[simp] theorem State.abort_main (s : State) (c : AbortCode) : (s.abort c).main = s.main := rfl
@[simp] theorem State.abort_isEightShort (s : State) (c : AbortCode) : (s.abort c).isEightShort = s.isEightShort := rfl
@[simp] theorem State.abort_noiseUsed (s : State) (c : AbortCode) : (s.abort c).noiseUsed = s.noiseUsed := rfl
@[simp] theorem State.abort_numWindowGroups (s : State) (c : AbortCode) : (s.abort c).numWindowGroups = s.numWindowGroups := rfl
@[simp] theorem State.abort_maxSfb (s : State) (c : AbortCode) : (s.abort c).maxSfb = s.maxSfb := rfl
@[simp] theorem State.abort_globalGain (s : State) (c : AbortCode) : (s.abort c).globalGain = s.globalGain := rfl
@[simp] theorem State.abort_sfConcealment (s : State) (c : AbortCode) : (s.abort c).sfConcealment = s.sfConcealment := rfl
@[simp] theorem State.abort_revGlobalGain (s : State) (c : AbortCode) : (s.abort c).revGlobalGain = s.revGlobalGain := rfl
@[simp] theorem State.abort_lengthOfRvlcSf (s : State) (c : AbortCode) : (s.abort c).lengthOfRvlcSf = s.lengthOfRvlcSf := rfl
@[simp] theorem State.abort_dpcmNoiseNrg (s : State) (c : AbortCode) : (s.abort c).dpcmNoiseNrg = s.dpcmNoiseNrg := rfl
@[simp] theorem State.abort_sfEscapesPresent (s : State) (c : AbortCode) : (s.abort c).sfEscapesPresent = s.sfEscapesPresent := rfl
@[simp] theorem State.abort_lengthOfRvlcEscapes (s : State) (c : AbortCode) : (s.abort c).lengthOfRvlcEscapes = s.lengthOfRvlcEscapes := rfl
@[simp] theorem State.abort_dpcmNoiseLastPosition (s : State) (c : AbortCode) : (s.abort c).dpcmNoiseLastPosition = s.dpcmNoiseLastPosition := rfl
@[simp] theorem State.abort_sf (s : State) (c : AbortCode) : (s.abort c).sf = s.sf := rfl
@[simp] theorem State.abort_esc (s : State) (c : AbortCode) : (s.abort c).esc = s.esc := rfl
@[simp] theorem State.abort_pc (s : State) (c : AbortCode) : (s.abort c).pc = s.pc := rfl
@[simp] theorem State.abort_scaleFactor (s : State) (c : AbortCode) : (s.abort c).scaleFactor = s.scaleFactor := rfl
@[simp] theorem State.abort_isPosition (s : State) (c : AbortCode) : (s.abort c).isPosition = s.isPosition := rfl
@[simp] theorem State.abort_noiseEnergy (s : State) (c : AbortCode) : (s.abort c).noiseEnergy = s.noiseEnergy := rfl
@[simp] theorem State.abort_t (s : State) (c : AbortCode) : (s.abort c).t = s.t := rfl
@[simp] theorem State.abort_walker (s : State) (c : AbortCode) : (s.abort c).walker = s.walker := rfl
@[simp] theorem State.abort_walkValue (s : State) (c : AbortCode) : (s.abort c).walkValue = s.walkValue := rfl
@[simp] theorem State.abort_huffValue (s : State) (c : AbortCode) : (s.abort c).huffValue = s.huffValue := rfl
@[simp] theorem State.abort_noisePcmFlag (s : State) (c : AbortCode) : (s.abort c).noisePcmFlag = s.noisePcmFlag := rfl
@[simp] theorem State.abort_decState (s : State) (c : AbortCode) : (s.abort c).decState = some (.aborted c) := rfl
@[simp] theorem State.abort_phase (s : State) (c : AbortCode) : (s.abort c).phase = s.phase := rfl
@[simp] theorem State.abort_hdrDone (s : State) (c : AbortCode) : (s.abort c).hdrDone = s.hdrDone := rfl
@[simp] theorem State.abort_result (s : State) (c : AbortCode) : (s.abort c).result = some (abortResult c) := rfl
@[simp] theorem State.abort_fault (s : State) (c : AbortCode) : (s.abort c).fault = s.fault := rfl
@[simp] theorem State.abort_refused (s : State) (c : AbortCode) : (s.abort c).refused = s.refused := rfl
@[simp] theorem State.abort_mem (s : State) (c : AbortCode) : (s.abort c).mem = s.mem := rfl

@[simp] theorem State.dispose_cfg (s : State) : (s.dispose).cfg = s.cfg := rfl
@[simp] theorem State.dispose_host (s : State) : (s.dispose).host = s.host := rfl
@[simp] theorem State.dispose_main (s : State) : (s.dispose).main = s.main := rfl
@[simp] theorem State.dispose_isEightShort (s : State) : (s.dispose).isEightShort = s.isEightShort := rfl
@[simp] theorem State.dispose_noiseUsed (s : State) : (s.dispose).noiseUsed = s.noiseUsed := rfl
@[simp] theorem State.dispose_numWindowGroups (s : State) : (s.dispose).numWindowGroups = s.numWindowGroups := rfl
@[simp] theorem State.dispose_maxSfb (s : State) : (s.dispose).maxSfb = s.maxSfb := rfl
@[simp] theorem State.dispose_globalGain (s : State) : (s.dispose).globalGain = s.globalGain := rfl
@[simp] theorem State.dispose_sfConcealment (s : State) : (s.dispose).sfConcealment = s.sfConcealment := rfl
@[simp] theorem State.dispose_revGlobalGain (s : State) : (s.dispose).revGlobalGain = s.revGlobalGain := rfl
@[simp] theorem State.dispose_lengthOfRvlcSf (s : State) : (s.dispose).lengthOfRvlcSf = s.lengthOfRvlcSf := rfl
@[simp] theorem State.dispose_dpcmNoiseNrg (s : State) : (s.dispose).dpcmNoiseNrg = s.dpcmNoiseNrg := rfl
@[simp] theorem State.dispose_sfEscapesPresent (s : State) : (s.dispose).sfEscapesPresent = s.sfEscapesPresent := rfl
@[simp] theorem State.dispose_lengthOfRvlcEscapes (s : State) : (s.dispose).lengthOfRvlcEscapes = s.lengthOfRvlcEscapes := rfl
@[simp] theorem State.dispose_dpcmNoiseLastPosition (s : State) : (s.dispose).dpcmNoiseLastPosition = s.dpcmNoiseLastPosition := rfl
@[simp] theorem State.dispose_sf (s : State) : (s.dispose).sf = none := rfl
@[simp] theorem State.dispose_esc (s : State) : (s.dispose).esc = none := rfl
@[simp] theorem State.dispose_pc (s : State) : (s.dispose).pc = s.pc := rfl
@[simp] theorem State.dispose_scaleFactor (s : State) : (s.dispose).scaleFactor = s.scaleFactor := rfl
@[simp] theorem State.dispose_isPosition (s : State) : (s.dispose).isPosition = s.isPosition := rfl
@[simp] theorem State.dispose_noiseEnergy (s : State) : (s.dispose).noiseEnergy = s.noiseEnergy := rfl
@[simp] theorem State.dispose_t (s : State) : (s.dispose).t = s.t := rfl
@[simp] theorem State.dispose_walker (s : State) : (s.dispose).walker = s.walker := rfl
@[simp] theorem State.dispose_walkValue (s : State) : (s.dispose).walkValue = s.walkValue := rfl
@[simp] theorem State.dispose_huffValue (s : State) : (s.dispose).huffValue = s.huffValue := rfl
@[simp] theorem State.dispose_noisePcmFlag (s : State) : (s.dispose).noisePcmFlag = s.noisePcmFlag := rfl
@[simp] theorem State.dispose_decState (s : State) : (s.dispose).decState = s.decState := rfl
@[simp] theorem State.dispose_phase (s : State) : (s.dispose).phase = s.phase := rfl
@[simp] theorem State.dispose_hdrDone (s : State) : (s.dispose).hdrDone = s.hdrDone := rfl
@[simp] theorem State.dispose_result (s : State) : (s.dispose).result = s.result := rfl
@[simp] theorem State.dispose_fault (s : State) : (s.dispose).fault = s.fault := rfl
@[simp] theorem State.dispose_refused (s : State) : (s.dispose).refused = s.refused := rfl
@[simp] theorem State.dispose_mem (s : State) : (s.dispose).mem = s.mem := rfl

@[simp] theorem State.leaveDec_cfg (s : State) : (s.leaveDec).cfg = s.cfg := rfl
@[simp] theorem State.leaveDec_host (s : State) : (s.leaveDec).host = s.host := rfl
@[simp] theorem State.leaveDec_main (s : State) : (s.leaveDec).main = s.main := rfl
@[simp] theorem State.leaveDec_isEightShort (s : State) : (s.leaveDec).isEightShort = s.isEightShort := rfl
@[simp] theorem State.leaveDec_noiseUsed (s : State) : (s.leaveDec).noiseUsed = s.noiseUsed := rfl
@[simp] theorem State.leaveDec_numWindowGroups (s : State) : (s.leaveDec).numWindowGroups = s.numWindowGroups := rfl
@[simp] theorem State.leaveDec_maxSfb (s : State) : (s.leaveDec).maxSfb = s.maxSfb := rfl
@[simp] theorem State.leaveDec_globalGain (s : State) : (s.leaveDec).globalGain = s.globalGain := rfl
@[simp] theorem State.leaveDec_sfConcealment (s : State) : (s.leaveDec).sfConcealment = s.sfConcealment := rfl
@[simp] theorem State.leaveDec_revGlobalGain (s : State) : (s.leaveDec).revGlobalGain = s.revGlobalGain := rfl
@[simp] theorem State.leaveDec_lengthOfRvlcSf (s : State) : (s.leaveDec).lengthOfRvlcSf = s.lengthOfRvlcSf := rfl
@[simp] theorem State.leaveDec_dpcmNoiseNrg (s : State) : (s.leaveDec).dpcmNoiseNrg = s.dpcmNoiseNrg := rfl
@[simp] theorem State.leaveDec_sfEscapesPresent (s : State) : (s.leaveDec).sfEscapesPresent = s.sfEscapesPresent := rfl
@[simp] theorem State.leaveDec_lengthOfRvlcEscapes (s : State) : (s.leaveDec).lengthOfRvlcEscapes = s.lengthOfRvlcEscapes := rfl
@[simp] theorem State.leaveDec_dpcmNoiseLastPosition (s : State) : (s.leaveDec).dpcmNoiseLastPosition = s.dpcmNoiseLastPosition := rfl
@[simp] theorem State.leaveDec_sf (s : State) : (s.leaveDec).sf = none := rfl
@[simp] theorem State.leaveDec_esc (s : State) : (s.leaveDec).esc = none := rfl
@[simp] theorem State.leaveDec_pc (s : State) : (s.leaveDec).pc = s.pc := rfl
@[simp] theorem State.leaveDec_scaleFactor (s : State) : (s.leaveDec).scaleFactor = s.scaleFactor := rfl
@[simp] theorem State.leaveDec_isPosition (s : State) : (s.leaveDec).isPosition = s.isPosition := rfl
@[simp] theorem State.leaveDec_noiseEnergy (s : State) : (s.leaveDec).noiseEnergy = s.noiseEnergy := rfl
@[simp] theorem State.leaveDec_t (s : State) : (s.leaveDec).t = s.t := rfl
@[simp] theorem State.leaveDec_walker (s : State) : (s.leaveDec).walker = s.walker := rfl
@[simp] theorem State.leaveDec_walkValue (s : State) : (s.leaveDec).walkValue = s.walkValue := rfl
@[simp] theorem State.leaveDec_huffValue (s : State) : (s.leaveDec).huffValue = s.huffValue := rfl
@[simp] theorem State.leaveDec_noisePcmFlag (s : State) : (s.leaveDec).noisePcmFlag = s.noisePcmFlag := rfl
@[simp] theorem State.leaveDec_decState (s : State) : (s.leaveDec).decState = s.decState := rfl
@[simp] theorem State.leaveDec_phase (s : State) : (s.leaveDec).phase = .idle := rfl
@[simp] theorem State.leaveDec_hdrDone (s : State) : (s.leaveDec).hdrDone = s.hdrDone := rfl
@[simp] theorem State.leaveDec_result (s : State) : (s.leaveDec).result = s.result := rfl
@[simp] theorem State.leaveDec_fault (s : State) : (s.leaveDec).fault = s.fault := rfl
@[simp] theorem State.leaveDec_refused (s : State) : (s.leaveDec).refused = s.refused := rfl
@[simp] theorem State.leaveDec_mem (s : State) : (s.leaveDec).mem = s.mem := rfl

@[simp] theorem endHdr_cfg (s : State) : (endHdr s).cfg = s.cfg := rfl
@[simp] theorem endHdr_host (s : State) : (endHdr s).host = s.host := rfl
@[simp] theorem endHdr_main (s : State) : (endHdr s).main = s.main := rfl
@[simp] theorem endHdr_isEightShort (s : State) : (endHdr s).isEightShort = s.isEightShort := rfl
@[simp] theorem endHdr_noiseUsed (s : State) : (endHdr s).noiseUsed = s.noiseUsed := rfl
@[simp] theorem endHdr_numWindowGroups (s : State) : (endHdr s).numWindowGroups = s.numWindowGroups := rfl
@[simp] theorem endHdr_maxSfb (s : State) : (endHdr s).maxSfb = s.maxSfb := rfl
@[simp] theorem endHdr_globalGain (s : State) : (endHdr s).globalGain = s.globalGain := rfl
@[simp] theorem endHdr_sfConcealment (s : State) : (endHdr s).sfConcealment = s.sfConcealment := rfl
@[simp] theorem endHdr_revGlobalGain (s : State) : (endHdr s).revGlobalGain = s.revGlobalGain := rfl
@[simp] theorem endHdr_lengthOfRvlcSf (s : State) : (endHdr s).lengthOfRvlcSf = s.lengthOfRvlcSf := rfl
@[simp] theorem endHdr_dpcmNoiseNrg (s : State) : (endHdr s).dpcmNoiseNrg = s.dpcmNoiseNrg := rfl
@[simp] theorem endHdr_sfEscapesPresent (s : State) : (endHdr s).sfEscapesPresent = s.sfEscapesPresent := rfl
@[simp] theorem endHdr_lengthOfRvlcEscapes (s : State) : (endHdr s).lengthOfRvlcEscapes = s.lengthOfRvlcEscapes := rfl
@[simp] theorem endHdr_dpcmNoiseLastPosition (s : State) : (endHdr s).dpcmNoiseLastPosition = s.dpcmNoiseLastPosition := rfl
@[simp] theorem endHdr_sf (s : State) : (endHdr s).sf = s.sf := rfl
@[simp] theorem endHdr_esc (s : State) : (endHdr s).esc = s.esc := rfl
@[simp] theorem endHdr_pc (s : State) : (endHdr s).pc = s.pc := rfl
@[simp] theorem endHdr_scaleFactor (s : State) : (endHdr s).scaleFactor = s.scaleFactor := rfl
@[simp] theorem endHdr_isPosition (s : State) : (endHdr s).isPosition = s.isPosition := rfl
@[simp] theorem endHdr_noiseEnergy (s : State) : (endHdr s).noiseEnergy = s.noiseEnergy := rfl
@[simp] theorem endHdr_t (s : State) : (endHdr s).t = s.t := rfl
@[simp] theorem endHdr_walker (s : State) : (endHdr s).walker = s.walker := rfl
@[simp] theorem endHdr_walkValue (s : State) : (endHdr s).walkValue = s.walkValue := rfl
@[simp] theorem endHdr_huffValue (s : State) : (endHdr s).huffValue = s.huffValue := rfl
@[simp] theorem endHdr_noisePcmFlag (s : State) : (endHdr s).noisePcmFlag = s.noisePcmFlag := rfl
@[simp] theorem endHdr_decState (s : State) : (endHdr s).decState = s.decState := rfl
@[simp] theorem endHdr_phase (s : State) : (endHdr s).phase = .idle := rfl
@[simp] theorem endHdr_hdrDone (s : State) : (endHdr s).hdrDone = true := rfl
@[simp] theorem endHdr_result (s : State) : (endHdr s).result = some codeOk := rfl
@[simp] theorem endHdr_fault (s : State) : (endHdr s).fault = s.fault := rfl
@[simp] theorem endHdr_refused (s : State) : (endHdr s).refused = s.refused := rfl
@[simp] theorem endHdr_mem (s : State) : (endHdr s).mem = s.mem := rfl

@[simp] theorem State.moveSub_cfg (s : State) (x : SubId) (c : Cursor) : (s.moveSub x c).cfg = s.cfg := by
  cases x <;> rfl
@[simp] theorem State.moveSub_host (s : State) (x : SubId) (c : Cursor) : (s.moveSub x c).host = s.host := by
  cases x <;> rfl
@[simp] theorem State.moveSub_main (s : State) (x : SubId) (c : Cursor) : (s.moveSub x c).main = s.main := by
  cases x <;> rfl
@[simp] theorem State.moveSub_isEightShort (s : State) (x : SubId) (c : Cursor) : (s.moveSub x c).isEightShort = s.isEightShort := by
  cases x <;> rfl
@[simp] theorem State.moveSub_noiseUsed (s : State) (x : SubId) (c : Cursor) : (s.moveSub x c).noiseUsed = s.noiseUsed := by
  cases x <;> rfl
@[simp] theorem State.moveSub_numWindowGroups (s : State) (x : SubId) (c : Cursor) : (s.moveSub x c).numWindowGroups = s.numWindowGroups := by
  cases x <;> rfl
@[simp] theorem State.moveSub_maxSfb (s : State) (x : SubId) (c : Cursor) : (s.moveSub x c).maxSfb = s.maxSfb := by
  cases x <;> rfl
@[simp] theorem State.moveSub_globalGain (s : State) (x : SubId) (c : Cursor) : (s.moveSub x c).globalGain = s.globalGain := by
  cases x <;> rfl
@[simp] theorem State.moveSub_sfConcealment (s : State) (x : SubId) (c : Cursor) : (s.moveSub x c).sfConcealment = s.sfConcealment := by
  cases x <;> rfl
@[simp] theorem State.moveSub_revGlobalGain (s : State) (x : SubId) (c : Cursor) : (s.moveSub x c).revGlobalGain = s.revGlobalGain := by
  cases x <;> rfl
@[simp] theorem State.moveSub_lengthOfRvlcSf (s : State) (x : SubId) (c : Cursor) : (s.moveSub x c).lengthOfRvlcSf = s.lengthOfRvlcSf := by
  cases x <;> rfl
@[simp] theorem State.moveSub_dpcmNoiseNrg (s : State) (x : SubId) (c : Cursor) : (s.moveSub x c).dpcmNoiseNrg = s.dpcmNoiseNrg := by
  cases x <;> rfl
@[simp] theorem State.moveSub_sfEscapesPresent (s : State) (x : SubId) (c : Cursor) : (s.moveSub x c).sfEscapesPresent = s.sfEscapesPresent := by
  cases x <;> rfl
@[simp] theorem State.moveSub_lengthOfRvlcEscapes (s : State) (x : SubId) (c : Cursor) : (s.moveSub x c).lengthOfRvlcEscapes = s.lengthOfRvlcEscapes := by
  cases x <;> rfl
@[simp] theorem State.moveSub_dpcmNoiseLastPosition (s : State) (x : SubId) (c : Cursor) : (s.moveSub x c).dpcmNoiseLastPosition = s.dpcmNoiseLastPosition := by
  cases x <;> rfl
@[simp] theorem State.moveSub_pc (s : State) (x : SubId) (c : Cursor) : (s.moveSub x c).pc = s.pc := by
  cases x <;> rfl
@[simp] theorem State.moveSub_scaleFactor (s : State) (x : SubId) (c : Cursor) : (s.moveSub x c).scaleFactor = s.scaleFactor := by
  cases x <;> rfl
@[simp] theorem State.moveSub_isPosition (s : State) (x : SubId) (c : Cursor) : (s.moveSub x c).isPosition = s.isPosition := by
  cases x <;> rfl
@[simp] theorem State.moveSub_noiseEnergy (s : State) (x : SubId) (c : Cursor) : (s.moveSub x c).noiseEnergy = s.noiseEnergy := by
  cases x <;> rfl
@[simp] theorem State.moveSub_t (s : State) (x : SubId) (c : Cursor) : (s.moveSub x c).t = s.t := by
  cases x <;> rfl
@[simp] theorem State.moveSub_walker (s : State) (x : SubId) (c : Cursor) : (s.moveSub x c).walker = s.walker := by
  cases x <;> rfl
@[simp] theorem State.moveSub_walkValue (s : State) (x : SubId) (c : Cursor) : (s.moveSub x c).walkValue = s.walkValue := by
  cases x <;> rfl
@[simp] theorem State.moveSub_huffValue (s : State) (x : SubId) (c : Cursor) : (s.moveSub x c).huffValue = s.huffValue := by
  cases x <;> rfl
@[simp] theorem State.moveSub_noisePcmFlag (s : State) (x : SubId) (c : Cursor) : (s.moveSub x c).noisePcmFlag = s.noisePcmFlag := by
  cases x <;> rfl
@[simp] theorem State.moveSub_decState (s : State) (x : SubId) (c : Cursor) : (s.moveSub x c).decState = s.decState := by
  cases x <;> rfl
@[simp] theorem State.moveSub_phase (s : State) (x : SubId) (c : Cursor) : (s.moveSub x c).phase = s.phase := by
  cases x <;> rfl
@[simp] theorem State.moveSub_hdrDone (s : State) (x : SubId) (c : Cursor) : (s.moveSub x c).hdrDone = s.hdrDone := by
  cases x <;> rfl
@[simp] theorem State.moveSub_result (s : State) (x : SubId) (c : Cursor) : (s.moveSub x c).result = s.result := by
  cases x <;> rfl
@[simp] theorem State.moveSub_fault (s : State) (x : SubId) (c : Cursor) : (s.moveSub x c).fault = s.fault := by
  cases x <;> rfl
@[simp] theorem State.moveSub_refused (s : State) (x : SubId) (c : Cursor) : (s.moveSub x c).refused = s.refused := by
  cases x <;> rfl
@[simp] theorem State.moveSub_mem (s : State) (x : SubId) (c : Cursor) : (s.moveSub x c).mem = s.mem := by
  cases x <;> rfl

@[simp] theorem State.moveSub_sf_sf (s : State) (c : Cursor) :
    (s.moveSub .sf c).sf = s.sf.map fun _ => c := rfl
@[simp] theorem State.moveSub_sf_esc (s : State) (c : Cursor) : (s.moveSub .sf c).esc = s.esc := rfl
@[simp] theorem State.moveSub_esc_esc (s : State) (c : Cursor) :
    (s.moveSub .esc c).esc = s.esc.map fun _ => c := rfl
@[simp] theorem State.moveSub_esc_sf (s : State) (c : Cursor) : (s.moveSub .esc c).sf = s.sf := rfl

end Sys2Proof.Machine
end

