-- ==== Sys2Proof/Laws/Ops.lean ====
section
/-!
SUPPORT. The specification lemma of each shared operation: what it does when its inputs are there, and
all it can do. `Micro.post` states what holds at each of the two ends of an operation, so that a proof
about a composite goes through its parts and unfolds none of them.
-/

namespace Sys2Proof.Machine

/-! ### Ends of an operation -/

section
variable {α β : Type}

@[simp] theorem Micro.andThen_done (a : α) (s : State) (f : α → State → Micro β) :
    (Micro.done a s).andThen f = f a s := rfl

@[simp] theorem Micro.andThen_ended (s : State) (f : α → State → Micro β) :
    (Micro.ended s : Micro α).andThen f = .ended s := rfl

@[simp] theorem Micro.state_done (a : α) (s : State) : (Micro.done a s).state = s := rfl

@[simp] theorem Micro.state_ended (s : State) : (Micro.ended s : Micro α).state = s := rfl

@[simp] theorem Micro.outcome_eq (m : Micro α) : m.outcome = .next m.state := rfl

/-- `Q` holds if the operation completes, `E` if a `raise` or `refuse` ends it. -/
def Micro.post (m : Micro α) (Q : α → State → Prop) (E : State → Prop) : Prop :=
  match m with
  | .done a s => Q a s
  | .ended s => E s

@[simp] theorem Micro.post_done (a : α) (s : State) (Q : α → State → Prop) (E : State → Prop) :
    (Micro.done a s).post Q E ↔ Q a s := Iff.rfl

@[simp] theorem Micro.post_ended (s : State) (Q : α → State → Prop) (E : State → Prop) :
    (Micro.ended s : Micro α).post Q E ↔ E s := Iff.rfl

@[simp] theorem Micro.post_andThen (m : Micro α) (f : α → State → Micro β) (Q : β → State → Prop)
    (E : State → Prop) :
    (m.andThen f).post Q E ↔ m.post (fun a s => (f a s).post Q E) E := by
  cases m <;> rfl

theorem Micro.post_mono {m : Micro α} {Q Q' : α → State → Prop} {E E' : State → Prop}
    (h : m.post Q E) (hQ : ∀ a s, Q a s → Q' a s) (hE : ∀ s, E s → E' s) : m.post Q' E' := by
  cases m with
  | done a s => exact hQ a s h
  | ended s => exact hE s h

/-- What holds at both ends holds of the state the operation leaves. -/
theorem Micro.post_state {m : Micro α} {P : State → Prop} (h : m.post (fun _ s => P s) P) :
    P m.state := by
  cases m <;> exact h

/-! ### Reads -/

@[simp] theorem need_some (a : α) (n : RegName) (s : State) : need (some a) n s = .done a s := rfl

@[simp] theorem need_none (n : RegName) (s : State) :
    need (none : Option α) n s = .ended (s.raiseFault (.unwrittenRead n)) := rfl

@[simp] theorem need_post (r : Option α) (n : RegName) (s : State) (Q : α → State → Prop)
    (E : State → Prop) :
    (need r n s).post Q E ↔
      (∀ a, r = some a → Q a s) ∧ (r = none → E (s.raiseFault (.unwrittenRead n))) := by
  cases r <;> simp

end

/-- R42: a read inside the buffer. -/
theorem Cursor.read_inside (p : OverrunPolicy) (c : Cursor) (n : Nat) (h : c.pos + n ≤ c.len) :
    c.read p n = some (memRead c.buf c.pos n, { c with pos := c.pos + n }) := by
  simp [Cursor.read, h]

/-- R43: a read past the end under the default policy. -/
theorem Cursor.read_overrun (c : Cursor) (n : Nat) (h₀ : n ≠ 0) (h : c.len < c.pos + n) :
    c.read .fault n = none := by
  simp [Cursor.read, h₀, Nat.not_le.2 h]

/-- A read changes nothing of a cursor but its position, which moves forward by at most `n`. -/
theorem Cursor.read_frame {p : OverrunPolicy} {c c' : Cursor} {n v : Nat}
    (h : c.read p n = some (v, c')) (hw : c.pos ≤ c.len) :
    c'.buf = c.buf ∧ c.pos ≤ c'.pos ∧ c'.pos ≤ c.pos + n ∧ c'.pos ≤ c'.len := by
  unfold Cursor.read at h
  split at h
  · next hc =>
    obtain ⟨rfl, rfl⟩ := Prod.mk.inj (Option.some.inj h)
    refine ⟨rfl, Nat.le_add_right _ _, le_refl _, ?_⟩
    simp only [Cursor.len] at *
    omega
  · next hc =>
    cases p with
    | fault => cases h
    | zeroFill =>
      obtain ⟨rfl, rfl⟩ := Prod.mk.inj (Option.some.inj h)
      refine ⟨rfl, hw, ?_, by simp [Cursor.len]⟩
      push Not at hc
      simpa using hc.2.le

/-- R46: a carve inside the buffer. -/
theorem Cursor.carve_inside (p : OverrunPolicy) (c : Cursor) (L : Nat) (h : c.pos + L ≤ c.len) :
    c.carve p L = some (⟨(c.buf.drop c.pos).take L, 0⟩, { c with pos := c.pos + L }) := by
  simp [Cursor.carve, h]

/-- R43, R46: a carve past the end under the default policy. -/
theorem Cursor.carve_overrun (c : Cursor) (L : Nat) (h : c.len < c.pos + L) :
    c.carve .fault L = none := by
  simp [Cursor.carve, Nat.not_le.2 h]

/-- A carve leaves the source's buffer alone and moves its position forward; the new cursor stands at
0 over exactly `L` bits. -/
theorem Cursor.carve_frame {p : OverrunPolicy} {c c' new : Cursor} {L : Nat}
    (h : c.carve p L = some (new, c')) (hw : c.pos ≤ c.len) :
    c'.buf = c.buf ∧ c.pos ≤ c'.pos ∧ c'.pos ≤ c'.len ∧ new.pos = 0 ∧ new.len = L := by
  unfold Cursor.carve at h
  split at h
  · next hc =>
    obtain ⟨rfl, rfl⟩ := Prod.mk.inj (Option.some.inj h)
    refine ⟨rfl, Nat.le_add_right _ _, hc, rfl, ?_⟩
    simp only [Cursor.len, List.length_take, List.length_drop] at *
    omega
  · next hc =>
    cases p with
    | fault => cases h
    | zeroFill =>
      obtain ⟨rfl, rfl⟩ := Prod.mk.inj (Option.some.inj h)
      refine ⟨rfl, hw, le_refl _, rfl, ?_⟩
      simp only [Cursor.len, List.length_append, List.length_take, List.length_drop,
        List.length_replicate] at *
      omega

/-- All that `ReadBits(main, n)` can do: advance `main`, or set the mark `fault`. -/
theorem readMain_post (n : Nat) (s : State) (Q : Nat → State → Prop) (E : State → Prop)
    (hQ : ∀ c v c', s.main = some c → c.read s.cfg.overrunPolicy n = some (v, c') →
      Q v { s with main := some c' })
    (hN : s.main = none → E (s.raiseFault (.unwrittenRead .main)))
    (hO : ∀ c, s.main = some c → c.read s.cfg.overrunPolicy n = none →
      E (s.raiseFault (.cursorOverrun .main))) : (readMain n s).post Q E := by
  unfold readMain
  cases hm : s.main with
  | none => simpa using hN hm
  | some c =>
    simp only [need_some, Micro.andThen_done]
    cases hr : c.read s.cfg.overrunPolicy n with
    | none => exact hO c hm hr
    | some vc => exact hQ c vc.1 vc.2 hm hr

/-- R42 for `main`. -/
theorem readMain_inside (n : Nat) (s : State) (c : Cursor) (h : s.main = some c)
    (hc : c.pos + n ≤ c.len) :
    readMain n s = .done (memRead c.buf c.pos n) { s with main := some { c with pos := c.pos + n } } := by
  simp [readMain, h, Cursor.read_inside _ _ _ hc]

/-- R43 for `main`. -/
theorem readMain_overrun (n : Nat) (s : State) (c : Cursor) (h : s.main = some c) (h₀ : n ≠ 0)
    (hc : c.len < c.pos + n) (hp : s.cfg.overrunPolicy = .fault) :
    readMain n s = .ended (s.raiseFault (.cursorOverrun .main)) := by
  simp [readMain, h, hp, Cursor.read_overrun _ _ h₀ hc]

/-- R46 for `main`. -/
theorem carveMain_inside (L : Nat) (s : State) (c : Cursor) (h : s.main = some c)
    (hc : c.pos + L ≤ c.len) :
    carveMain L s =
      .done ⟨(c.buf.drop c.pos).take L, 0⟩ { s with main := some { c with pos := c.pos + L } } := by
  simp [carveMain, h, Cursor.carve_inside _ _ _ hc]

/-- All that a carve of `main` can do: advance `main`, or set the mark `fault`. -/
theorem carveMain_post (L : Nat) (s : State) (Q : Cursor → State → Prop) (E : State → Prop)
    (hQ : ∀ c new c', s.main = some c → c.carve s.cfg.overrunPolicy L = some (new, c') →
      Q new { s with main := some c' })
    (hN : s.main = none → E (s.raiseFault (.unwrittenRead .main)))
    (hO : ∀ c, s.main = some c → c.carve s.cfg.overrunPolicy L = none →
      E (s.raiseFault (.cursorOverrun .main))) : (carveMain L s).post Q E := by
  unfold carveMain
  cases hm : s.main with
  | none => simpa using hN hm
  | some c =>
    simp only [need_some, Micro.andThen_done]
    cases hr : c.carve s.cfg.overrunPolicy L with
    | none => exact hO c hm hr
    | some vc => exact hQ c vc.1 vc.2 hm hr

/-! ### Writes -/

/-- R53: the write of an element that exists. -/
theorem writeElement_done (v : Int) (s : State) (p : BandPtr) (h : s.pc = some p)
    (he : elementExists s.cfg p.g p.sfb = true) :
    writeElement v s = .done () { s with
      mem := { s.mem with scaleFactors := cellWrite p.g p.sfb v s.mem.scaleFactors } } := by
  simp [writeElement, h, he]

/-- All that the write of an element can do. -/
theorem writeElement_post (v : Int) (s : State) (Q : Unit → State → Prop) (E : State → Prop)
    (hQ : ∀ p, s.pc = some p → elementExists s.cfg p.g p.sfb = true → Q () { s with
      mem := { s.mem with scaleFactors := cellWrite p.g p.sfb v s.mem.scaleFactors } })
    (hN : s.pc = none → E (s.raiseFault (.unwrittenRead .pc)))
    (hX : ∀ p, s.pc = some p → elementExists s.cfg p.g p.sfb = false → E (s.refuse .indexRange)) :
    (writeElement v s).post Q E := by
  unfold writeElement
  cases hp : s.pc with
  | none => simpa using hN hp
  | some p =>
    cases he : elementExists s.cfg p.g p.sfb with
    | true => simpa [he] using hQ p hp he
    | false => simpa [he] using hX p hp he

/-- R132: a baseline that fits. -/
theorem newBaseline_fits (v : Int) (s : State) (h : accFits s.cfg v = true) :
    newBaseline v s = .done v s := by
  simp [newBaseline, h]

/-- R132: a baseline that does not fit. -/
theorem newBaseline_refused (v : Int) (s : State) (h : accFits s.cfg v = false) :
    newBaseline v s = .ended (s.refuse .accOverflow) := by
  simp [newBaseline, h]

/-! ### The walker -/

/-- What reads can do to a cursor: the buffer stays, and a position in range moves forward in range. -/
def CursorMoves (c c' : Cursor) : Prop :=
  c'.buf = c.buf ∧ (c.pos ≤ c.len → c.pos ≤ c'.pos ∧ c'.pos ≤ c'.len)

theorem CursorMoves.refl (c : Cursor) : CursorMoves c c := ⟨rfl, fun h => ⟨le_refl _, h⟩⟩

theorem CursorMoves.trans {a b c : Cursor} (h₁ : CursorMoves a b) (h₂ : CursorMoves b c) :
    CursorMoves a c :=
  ⟨h₂.1.trans h₁.1, fun h => ⟨(h₁.2 h).1.trans (h₂.2 (h₁.2 h).2).1, (h₂.2 (h₁.2 h).2).2⟩⟩

theorem Cursor.read_moves {p : OverrunPolicy} {c c' : Cursor} {n v : Nat}
    (h : c.read p n = some (v, c')) : CursorMoves c c' := by
  refine ⟨?_, fun hw => ⟨(Cursor.read_frame h hw).2.1, (Cursor.read_frame h hw).2.2.2⟩⟩
  unfold Cursor.read at h
  split at h
  · obtain ⟨rfl, rfl⟩ := Prod.mk.inj (Option.some.inj h)
    rfl
  · cases p with
    | fault => cases h
    | zeroFill =>
      obtain ⟨rfl, rfl⟩ := Prod.mk.inj (Option.some.inj h)
      rfl

/-- The cursor a walk leaves. -/
def WalkResult.cursor : WalkResult → Cursor
  | .value _ _ c => c
  | .overrun _ c => c

theorem walkLoop_moves (p : OverrunPolicy) (maxLen : Nat) (rest : List RomEntry) :
    ∀ (e : RomEntry) (k i cw : Nat) (c : Cursor),
      CursorMoves c (walkLoop p maxLen e k i cw c rest).cursor := by
  induction rest with
  | nil => intros; exact CursorMoves.refl _
  | cons e' rest ih =>
    intro e k i cw c
    simp only [walkLoop]
    split
    · exact CursorMoves.refl _
    · split
      · exact CursorMoves.refl _
      · split
        · exact CursorMoves.refl _
        · next hr => exact (Cursor.read_moves hr).trans (ih _ _ _ _ _)

/-- A walk moves its cursor only as reads do (R113). -/
theorem walkTable_moves (p : OverrunPolicy) (T : Rom) (c : Cursor) :
    CursorMoves c (walkTable p T c).cursor := by
  unfold walkTable
  split
  · exact CursorMoves.refl _
  · next hr => exact (Cursor.read_moves hr).trans (walkLoop_moves _ _ _ _ _ _ _ _)

/-- All that a walk can do to the state: move its own sub-cursor, drop or keep the walker registers, give
a value or raise an overrun of that sub-cursor. -/
theorem walk_post (x : SubId) (s : State) (Q : Int → State → Prop) (E : State → Prop)
    (hQ : ∀ v c, CursorMoves (s.subCursor x) c →
      Q v { s.moveSub x c with walker := Walker.undef, walkValue := some v })
    (hE : ∀ w c, CursorMoves (s.subCursor x) c →
      E ({ s.moveSub x c with walker := w }.raiseFault (.cursorOverrun x.cursorId))) :
    (walk x s).post Q E := by
  have hm := walkTable_moves s.cfg.overrunPolicy (romOfSub s.cfg x) (s.subCursor x)
  unfold walk
  split
  · next h => rw [h] at hm; exact hQ _ _ hm
  · next h => rw [h] at hm; exact hE _ _ hm

/-- A sub-cursor after some walks: held or not as before, and moved as reads move it. -/
def SubMoves : Option Cursor → Option Cursor → Prop
  | none, none => True
  | some c, some c' => CursorMoves c c'
  | _, _ => False

theorem SubMoves.refl (a : Option Cursor) : SubMoves a a := by
  cases a with
  | none => trivial
  | some c => exact CursorMoves.refl c

theorem SubMoves.trans {a b c : Option Cursor} (h₁ : SubMoves a b) (h₂ : SubMoves b c) :
    SubMoves a c := by
  cases a <;> cases b <;> cases c <;> simp_all [SubMoves]
  exact CursorMoves.trans h₁ h₂

theorem SubMoves.map {a : Option Cursor} {c : Cursor} (h : CursorMoves (a.getD Cursor.empty) c) :
    SubMoves a (a.map fun _ => c) := by
  cases a with
  | none => trivial
  | some _ => exact h

/-- `s'` differs from `s` at most in what walks write (R37): the sub-cursors' positions, the walker
registers, the values they returned. -/
def HuffFrame (s s' : State) : Prop :=
  ∃ a b w v d, s' = { s with sf := a, esc := b, walker := w, walkValue := v, huffValue := d } ∧
    SubMoves s.sf a ∧ SubMoves s.esc b

theorem HuffFrame.trans {s s' s'' : State} (h₁ : HuffFrame s s') (h₂ : HuffFrame s' s'') :
    HuffFrame s s'' := by
  obtain ⟨a, b, w, v, d, rfl, ha, hb⟩ := h₁
  obtain ⟨a', b', w', v', d', rfl, ha', hb'⟩ := h₂
  exact ⟨a', b', w', v', d', rfl, ha.trans ha', hb.trans hb'⟩

/-- A walk writes nothing outside `HuffFrame`, plus the mark `fault` when it overruns. -/
theorem walk_frame (x : SubId) (s : State) :
    (walk x s).post
      (fun _ s' => HuffFrame s s' ∧ s'.walker = Walker.undef)
      (fun s' => ∃ s₁, HuffFrame s s₁ ∧ s' = s₁.raiseFault (.cursorOverrun x.cursorId)) := by
  refine walk_post x s _ _ ?_ ?_
  · intro v c hm
    cases x with
    | sf => exact ⟨⟨_, s.esc, _, _, s.huffValue, rfl, SubMoves.map hm, SubMoves.refl _⟩, rfl⟩
    | esc => exact ⟨⟨s.sf, _, _, _, s.huffValue, rfl, SubMoves.refl _, SubMoves.map hm⟩, rfl⟩
  · intro w c hm
    cases x with
    | sf => exact ⟨_, ⟨_, s.esc, w, s.walkValue, s.huffValue, rfl, SubMoves.map hm, SubMoves.refl _⟩, rfl⟩
    | esc => exact ⟨_, ⟨s.sf, _, w, s.walkValue, s.huffValue, rfl, SubMoves.refl _, SubMoves.map hm⟩, rfl⟩

/-- `HUFF_SF` writes nothing outside `HuffFrame`, plus the mark `fault` when a walk overruns; when it
completes, the value it returned is kept (log entry 20). -/
theorem huffSf_frame (s : State) :
    (huffSf s).post
      (fun d s' => HuffFrame s s' ∧ s'.walker = Walker.undef ∧ s'.huffValue = some d)
      (fun s' => ∃ s₁ x, HuffFrame s s₁ ∧ s' = s₁.raiseFault (.cursorOverrun (SubId.cursorId x))) := by
  have ret : ∀ (d : Int) (s' : State), HuffFrame s s' → s'.walker = Walker.undef →
      (returnDelta d s').post
        (fun d s' => HuffFrame s s' ∧ s'.walker = Walker.undef ∧ s'.huffValue = some d)
        (fun s' => ∃ s₁ x, HuffFrame s s₁ ∧ s' = s₁.raiseFault (.cursorOverrun (SubId.cursorId x))) := by
    rintro d s' ⟨a, b, w, v, _, rfl, ha, hb⟩ hw
    exact ⟨⟨a, b, w, v, some d, rfl, ha, hb⟩, hw, rfl⟩
  unfold huffSf
  simp only [Micro.post_andThen]
  refine Micro.post_mono (walk_frame .sf s) ?_ ?_
  · rintro v s₁ ⟨h₁, hw₁⟩
    split
    · simp only [Micro.post_andThen]
      refine Micro.post_mono (walk_frame .esc s₁) ?_ ?_
      · rintro e s₂ ⟨h₂, hw₂⟩
        split <;> exact ret _ _ (h₁.trans h₂) hw₂
      · rintro s₂ ⟨s₃, h₃, rfl⟩
        exact ⟨s₃, .esc, h₁.trans h₃, rfl⟩
    · split
      · simp only [Micro.post_andThen]
        refine Micro.post_mono (walk_frame .esc s₁) ?_ ?_
        · rintro e s₂ ⟨h₂, hw₂⟩
          split <;> exact ret _ _ (h₁.trans h₂) hw₂
        · rintro s₂ ⟨s₃, h₃, rfl⟩
          exact ⟨s₃, .esc, h₁.trans h₃, rfl⟩
      · exact ret _ _ h₁ hw₁
  · rintro s₁ ⟨s₂, h₂, rfl⟩
    exact ⟨s₂, .sf, h₂, rfl⟩

/-- `t <- HUFF_SF` writes the delta register beside what `HUFF_SF` writes, when that completes, and nothing
more when it does not (R37). -/
theorem takeDelta_frame (s : State) :
    (takeDelta s).post
      (fun d s' => ∃ s₁, HuffFrame s s₁ ∧ s₁.walker = Walker.undef ∧ s' = { s₁ with t := some d })
      (fun s' => ∃ s₁ x, HuffFrame s s₁ ∧ s' = s₁.raiseFault (.cursorOverrun (SubId.cursorId x))) := by
  simp only [takeDelta, Micro.post_andThen]
  exact Micro.post_mono (huffSf_frame s) (fun _ s₁ h => ⟨s₁, h.1, h.2.1, rfl⟩) (fun _ h => h)

end Sys2Proof.Machine
end

