-- ==== Sys2Proof/Laws/Frames.lean ====
section
/-!
SUPPORT. Frames. `Micro.within R s m` says that the state in which `m` leaves the unit, however it ends,
stands in the relation `R` to `s`. For a relation that is reflexive and transitive a composite operation
stays within it when its parts do, so a frame is proved once for each shared operation.
-/

namespace Sys2Proof.Machine

/-- A relation between states that frames can be built from. -/
structure FrameRel (R : State → State → Prop) : Prop where
  refl : ∀ s, R s s
  trans : ∀ {a b c}, R a b → R b c → R a c

/-- However `m` ends, its state is related to `s`. -/
def Micro.within {α : Type} (R : State → State → Prop) (s : State) (m : Micro α) : Prop :=
  m.post (fun _ => R s) (R s)

section
variable {α β : Type} {R : State → State → Prop}

theorem Micro.within_state {s : State} {m : Micro α} (h : m.within R s) : R s m.state :=
  Micro.post_state h

theorem Micro.within_andThen (hR : FrameRel R) {s : State} {m : Micro α} {f : α → State → Micro β}
    (h : m.within R s) (hf : ∀ a s', (f a s').within R s') : (m.andThen f).within R s := by
  cases m with
  | done a s' => exact Micro.post_mono (hf a s') (fun _ _ => hR.trans h) (fun _ => hR.trans h)
  | ended s' => exact h

/-- An update before an operation. -/
theorem Micro.within_update (hR : FrameRel R) {s s' : State} {m : Micro α} (h : R s s')
    (hm : m.within R s') : m.within R s :=
  Micro.post_mono hm (fun _ _ => hR.trans h) (fun _ => hR.trans h)

theorem need_within (hR : FrameRel R) (hf : ∀ s r, R s (s.raiseFault r)) (r : Option α) (n : RegName)
    (s : State) : (need r n s).within R s := by
  cases r with
  | none => exact hf _ _
  | some a => exact hR.refl _

end

variable {R : State → State → Prop}

/-- A read of `main` changes its position, or sets the mark `fault`. -/
theorem readMain_within (hf : ∀ s r, R s (s.raiseFault r))
    (hm : ∀ s c c', s.main = some c → c'.buf = c.buf → R s { s with main := some c' }) (n : Nat)
    (s : State) : (readMain n s).within R s :=
  readMain_post n s _ _ (fun _ _ _ h h' => hm _ _ _ h (Cursor.read_moves h').1) (fun _ => hf _ _)
    (fun _ _ _ => hf _ _)

/-- A walk stays within every relation that `HuffFrame` and a fault stay within. -/
theorem walk_within (hR : FrameRel R) (hf : ∀ s r, R s (s.raiseFault r))
    (hh : ∀ s s', HuffFrame s s' → R s s') (x : SubId) (s : State) : (walk x s).within R s := by
  refine Micro.post_mono (walk_frame x s) (fun _ _ h => hh _ _ h.1) ?_
  rintro _ ⟨s₁, h, rfl⟩
  exact hR.trans (hh _ _ h) (hf _ _)

theorem huffSf_within (hR : FrameRel R) (hf : ∀ s r, R s (s.raiseFault r))
    (hh : ∀ s s', HuffFrame s s' → R s s') (s : State) : (huffSf s).within R s := by
  refine Micro.post_mono (huffSf_frame s) (fun _ _ h => hh _ _ h.1) ?_
  rintro _ ⟨s₁, x, h, rfl⟩
  exact hR.trans (hh _ _ h) (hf _ _)

/-- The same for `t <- HUFF_SF`, for a relation that a write of the delta register stays within too. -/
theorem takeDelta_within (hR : FrameRel R) (hf : ∀ s r, R s (s.raiseFault r))
    (hh : ∀ s s', HuffFrame s s' → R s s') (ht : ∀ (s : State) d, R s { s with t := d }) (s : State) :
    (takeDelta s).within R s :=
  Micro.within_andThen hR (huffSf_within hR hf hh s) fun d s' => ht s' (some d)

end Sys2Proof.Machine
end

