-- ==== Sys2Proof/Laws/Memory.lean ====
section
/-!
SUPPORT. The table memories: a read after a write, the canonical form, and that every operation on a
table keeps it.
-/

namespace Sys2Proof.Machine

theorem keyLt_iff (a b : Nat × Nat) :
    keyLt a b = true ↔ a.1 < b.1 ∨ (a.1 = b.1 ∧ a.2 < b.2) := by
  simp [keyLt]

theorem keyLt_trans {a b c : Nat × Nat} (h₁ : keyLt a b = true) (h₂ : keyLt b c = true) :
    keyLt a c = true := by
  rw [keyLt_iff] at *
  omega

theorem keyLt_of_not {a b : Nat × Nat} (h₁ : keyLt a b ≠ true) (h₂ : b ≠ a) : keyLt b a = true := by
  rw [ne_eq, keyLt_iff] at h₁
  rw [keyLt_iff]
  have : b.1 ≠ a.1 ∨ b.2 ≠ a.2 := by
    by_contra h
    push Not at h
    exact h₂ (Prod.ext h.1 h.2)
  omega

variable {α : Type}

/-- R53: the element written reads as the value written. -/
theorem cellRead_cellWrite_same (g sfb : Nat) (v : α) (m : Cells α) :
    cellRead g sfb (cellWrite g sfb v m) = some v := by
  induction m with
  | nil => simp [cellWrite, cellRead]
  | cons e rest ih =>
    obtain ⟨k, w⟩ := e
    simp only [cellWrite]
    split
    · simp [cellRead]
    · split
      · simp [cellRead]
      · next hk => simpa [cellRead, hk] using ih

/-- R53: a write changes no other element. -/
theorem cellRead_cellWrite_other (g sfb : Nat) (v : α) (m : Cells α) (g' sfb' : Nat)
    (h : (g', sfb') ≠ (g, sfb)) : cellRead g' sfb' (cellWrite g sfb v m) = cellRead g' sfb' m := by
  have h' : (g, sfb) ≠ (g', sfb') := fun e => h e.symm
  induction m with
  | nil => simp only [cellWrite, cellRead, if_neg h']
  | cons e rest ih =>
    obtain ⟨k, w⟩ := e
    simp only [cellWrite]
    split
    · simp only [cellRead, if_neg h']
    · split
      · next hk =>
        subst hk
        simp only [cellRead, if_neg h']
      · simp only [cellRead, ih]

/-- What a write lists at its head. -/
theorem cellWrite_head (g sfb : Nat) (v : α) (m : Cells α) :
    ∃ e rest, cellWrite g sfb v m = e :: rest ∧
      (e.1 = (g, sfb) ∨ ∃ e' rest', m = e' :: rest' ∧ e.1 = e'.1) := by
  cases m with
  | nil => exact ⟨_, _, rfl, .inl rfl⟩
  | cons e rest =>
    obtain ⟨k, w⟩ := e
    simp only [cellWrite]
    split
    · exact ⟨_, _, rfl, .inl rfl⟩
    · split
      · exact ⟨_, _, rfl, .inl rfl⟩
      · exact ⟨_, _, rfl, .inr ⟨_, _, rfl, rfl⟩⟩

theorem cellsWf_cons_iff (e : (Nat × Nat) × α) (m : Cells α) :
    cellsWf (e :: m) = true ↔
      (∀ e' rest, m = e' :: rest → keyLt e.1 e'.1 = true) ∧ cellsWf m = true := by
  cases m with
  | nil => simp [cellsWf]
  | cons a rest => simp [cellsWf]

/-- A write keeps the canonical form. -/
theorem cellsWf_cellWrite (g sfb : Nat) (v : α) (m : Cells α) (h : cellsWf m = true) :
    cellsWf (cellWrite g sfb v m) = true := by
  induction m with
  | nil => rfl
  | cons e rest ih =>
    obtain ⟨k, w⟩ := e
    have hr := ((cellsWf_cons_iff _ _).1 h).2
    simp only [cellWrite]
    split
    · next hk => exact (cellsWf_cons_iff _ _).2 ⟨by rintro _ _ ⟨⟩; exact hk, h⟩
    · next hk =>
      split
      · next he =>
        subst he
        exact (cellsWf_cons_iff _ _).2 ⟨((cellsWf_cons_iff _ _).1 h).1, hr⟩
      · next he =>
        refine (cellsWf_cons_iff _ _).2 ⟨?_, ih hr⟩
        intro e' rest' heq
        obtain ⟨a, l, ha, hor⟩ := cellWrite_head g sfb v rest
        rw [ha] at heq
        obtain ⟨rfl, rfl⟩ := List.cons.inj heq
        rcases hor with h1 | ⟨b, l', hb, h1⟩
        · rw [h1]; exact keyLt_of_not hk he
        · rw [h1]; exact ((cellsWf_cons_iff _ _).1 h).1 _ _ hb

/-- The reset memory lists nothing and is in canonical form. -/
theorem reset_mem_wf : State.reset.mem.wf = true := by decide

/-- Every act of the host keeps the form of the codebook table. -/
theorem hostLoadSfbCb_mem_wf (g sfb : Nat) (v : BitVec 4) (s : State) (h : s.mem.wf = true) :
    (hostLoadSfbCb g sfb v s).mem.wf = true := by
  simp only [Memory.wf, Bool.and_eq_true] at h
  unfold hostLoadSfbCb
  split
  · simp [Memory.wf, cellsWf_cellWrite, h.1, h.2]
  · simp [Memory.wf, State.refuse, h.1, h.2]

/-- `writeElement` keeps the form of the memory, however it ends. -/
theorem writeElement_mem_wf (v : Int) (s : State) (h : s.mem.wf = true) :
    (writeElement v s).state.mem.wf = true := by
  have h' := h
  simp only [Memory.wf, Bool.and_eq_true] at h'
  unfold writeElement need
  cases s.pc with
  | none => exact h
  | some p =>
    simp only [Micro.andThen]
    split
    · simp [Memory.wf, Micro.state, cellsWf_cellWrite, h'.1, h'.2]
    · exact h

end Sys2Proof.Machine
end

