-- ==== Sys2Proof/Laws/PerInstr.lean ====
section
/-!
SUPPORT. Statements about every operation as syntax, one lemma for each constructor.
-/

namespace Sys2Proof.Laws.EncodingWidth

/-- The word of an operation has the width of the slot it stands in, so the decoder's width check never
rejects an encoded operation. -/
def Statement (i : Instr) : Prop := (encode i).length = i.slot.width

theorem hdrSfc : Statement .hdrSfc := rfl

theorem hdrRgg : Statement .hdrRgg := rfl

theorem hdrLenSf9 : Statement .hdrLenSf9 := rfl

theorem hdrLenSf11 : Statement .hdrLenSf11 := rfl

theorem hdrNoiseNrg : Statement .hdrNoiseNrg := rfl

theorem hdrEscPresent : Statement .hdrEscPresent := rfl

theorem hdrLenEsc : Statement .hdrLenEsc := rfl

theorem hdrNoiseLastpos : Statement .hdrNoiseLastpos := rfl

theorem carveSf : Statement .carveSf := rfl

theorem carveEsc : Statement .carveEsc := rfl

theorem release : Statement .release := rfl

theorem walkSf : Statement .walkSf := rfl

theorem walkEsc : Statement .walkEsc := rfl

theorem huffSf : Statement .huffSf := rfl

theorem fwdInit : Statement .fwdInit := rfl

theorem bandConcealed : Statement .bandConcealed := rfl

theorem bandZero : Statement .bandZero := rfl

theorem bandIntensity : Statement .bandIntensity := rfl

theorem bandIntensity2 : Statement .bandIntensity2 := rfl

theorem bandNoisePcm : Statement .bandNoisePcm := rfl

theorem bandNoiseDpcm : Statement .bandNoiseDpcm := rfl

theorem bandBookscl : Statement .bandBookscl := rfl

theorem bandSpectral (cb : BitVec 4) : Statement (.bandSpectral cb) := by
  simp [Statement, encode, Instr.slot, Slot.width]

theorem cmdHdr : Statement .cmdHdr := rfl

theorem cmdDec : Statement .cmdDec := rfl

end Sys2Proof.Laws.EncodingWidth
end

