-- ==== Sys2Proof/Tests/Slice0.lean ====
section
/-!
SUPPORT. Tests. The expected results are the spec's own (spec/95_test_vectors.md, cited by their ids:
M, H, C, W, E, F, B, Q and P), the words of its encoding tables, or the constraints of its rules. After them
one witness for the hypotheses of every obligation that has any, clause by clause.
-/

namespace Sys2Proof.Tests

open Sys2Proof Sys2Proof.Machine Sys2Proof.Claims

/-! ### Helpers -/

/-- A bit string written as digits. -/
def bin (l : List Nat) : Bits := l.map (· == 1)

/-- Power-on reset with set DEMO (95_test_vectors.md, section 2.1). -/
def demo : State := State.resetWith demoConfig

/-- `demo` with `main` at the front of some bits. -/
def onMain (b : Bits) : State := { demo with main := some ⟨b, 0⟩ }

/-- `demo` at band `(0, 0)` of one group of three bands, with the given segments carved. -/
def onBand (sf esc : Bits) : State :=
  { demo with
    numWindowGroups := some 1#4, maxSfb := some 3#6, globalGain := some 100
    sf := some ⟨sf, 0⟩, esc := some ⟨esc, 0⟩, pc := some ⟨0, 0⟩, decState := some .normal
    noisePcmFlag := some true, scaleFactor := some 100, isPosition := some (-1), noiseEnergy := some 10
    dpcmNoiseNrg := some 261#9, phase := .decode .band }

/-- A `CMD_DEC` can start: header parsed, 3 bits of scale-factor segment, two groups of two bands with the
given codebooks. -/
def onDec (b : Bits) (cbs : List (BitVec 4)) : State :=
  { demo with
    hdrDone := true, main := some ⟨b, 0⟩, lengthOfRvlcSf := some 3#11, sfEscapesPresent := some false
    numWindowGroups := some 2#4, maxSfb := some 2#6, globalGain := some 10
    mem := ⟨[((0, 0), cbs.getD 0 0#4), ((0, 1), cbs.getD 1 0#4), ((1, 0), cbs.getD 2 0#4),
      ((1, 1), cbs.getD 3 0#4)], []⟩ }

/-- The outcome is a next state with a property. -/
def endsWith (o : Outcome) (p : State → Bool) : Bool :=
  match o with
  | .next s => p s
  | .fault _ => false
  | .refused _ => false

/-- A walk of a table: value and bits consumed. -/
def walkOf (T : Rom) (b : Bits) : Option (Int × Nat) :=
  match walkTable .fault T ⟨b, 0⟩ with
  | .value v _ c => some (v, c.pos)
  | .overrun _ _ => none

/-- The fields of vectors H1 to H8, raw length 20. -/
def hFields (escapes : Bool) : HeaderFields := ⟨true, 150#8, 20#11, 261#9, escapes, 5#8, 3#9⟩

/-! ### Well-formedness: each check refuses an ill-formed term -/

theorem test_wf_tables : defaultConfig.wf = true ∧ demoConfig.wf = true := by decide
theorem demoConfig_wf : demoConfig.wf = true := by decide
theorem test_wf_spectral_zero : (Instr.bandSpectral 0#4).wf = false := by decide
theorem test_wf_spectral_twelve : (Instr.bandSpectral 12#4).wf = false := by decide
theorem test_wf_descending_length : romAscending [⟨0, 3, 0⟩, ⟨1, 2, 1⟩] = false := by decide
theorem test_wf_equal_codeword : romAscending [⟨0, 3, 4⟩, ⟨1, 3, 4⟩] = false := by decide
theorem test_wf_sentinel_value : Rom.sentinelOk 10 ⟨[⟨0, 1, 0⟩], ⟨98, 10, 0⟩⟩ = false := by decide
theorem test_wf_sentinel_length : Rom.sentinelOk 10 ⟨[⟨0, 1, 0⟩], ⟨99, 9, 0⟩⟩ = false := by decide
theorem test_wf_empty_table : Rom.nonEmpty ⟨[], ⟨99, 10, 0⟩⟩ = false := by decide
theorem test_wf_first_of_no_bits : Rom.positiveFirst ⟨[⟨0, 0, 0⟩], ⟨99, 10, 0⟩⟩ = false := by decide
theorem test_wf_interior_long : Rom.interiorShort 10 ⟨[⟨0, 10, 0⟩], ⟨99, 10, 1⟩⟩ = false := by decide
theorem test_wf_codeword_wide : Rom.codewordsFit ⟨[⟨0, 2, 4⟩], ⟨99, 10, 0⟩⟩ = false := by decide
theorem test_wf_too_long_to_read : Rom.readable 33 = false := by decide
theorem test_wf_value_wide : Rom.valuesFit ⟨[⟨128, 1, 0⟩], ⟨99, 10, 0⟩⟩ = false := by decide
theorem test_wf_negative_escape : Rom.nonNegative ⟨[⟨-1, 1, 0⟩], ⟨99, 21, 0⟩⟩ = false := by decide
theorem test_wf_short_literal_table : (NoiseLiteral.tabulated [0, 1]).wf = false := by decide
theorem test_wf_no_accumulator : ({ demoConfig with accW := 0 } : Config).wf = false := by decide
theorem test_wf_swapped_tables : ({ demoConfig with tSf := demoEsc } : Config).wf = false := by decide

/-! ### Decoding: words from the encoding tables (R64, R69, R83) -/

theorem test_decode_command : decode .command [true] = .instr .cmdDec := by decide
theorem test_decode_command_hdr : decode .command [false] = .instr .cmdHdr := by decide
theorem test_decode_zero : decode (.band .normal true) (bin [0, 0, 0, 0]) = .instr .bandZero := by decide
theorem test_decode_spectral : decode (.band .normal true) (bin [0, 0, 0, 1]) = .instr (.bandSpectral 1#4) := by
  decide
theorem test_decode_bookscl : decode (.band .normal true) (bin [1, 1, 0, 0]) = .instr .bandBookscl := by decide
theorem test_decode_first_noise : decode (.band .normal true) (bin [1, 1, 0, 1]) = .instr .bandNoisePcm := by
  decide
theorem test_decode_later_noise : decode (.band .normal false) (bin [1, 1, 0, 1]) = .instr .bandNoiseDpcm := by
  decide
theorem test_decode_intensity2 : decode (.band .normal true) (bin [1, 1, 1, 0]) = .instr .bandIntensity2 := by
  decide
theorem test_decode_intensity : decode (.band .normal true) (bin [1, 1, 1, 1]) = .instr .bandIntensity := by
  decide
theorem test_decode_concealed : decode (.band .concealed true) (bin [1, 1, 0, 0]) = .instr .bandConcealed := by
  decide
theorem test_decode_after_abort :
    decode (.band (.aborted .invalidCodebook) true) (bin [0, 0, 0, 0]) = .rejected .runEnded := by decide
theorem test_decode_length_long :
    decode (.header .lenSf false) (bin [0, 0, 0, 0, 1, 0, 1, 0, 0]) = .instr .hdrLenSf9 := by decide
theorem test_decode_length_short :
    decode (.header .lenSf true) (bin [1, 0, 1, 0, 0, 0, 1, 0, 1, 0, 0]) = .instr .hdrLenSf11 := by decide
theorem test_decode_wrong_width :
    decode (.header .lenSf true) (bin [0, 0, 0, 0, 1, 0, 1, 0, 0]) = .rejected (.wrongWidth 11) := by decide
theorem test_decode_segment : decode (.sequenced .carveEsc) [] = .instr .carveEsc := by decide

/-- H1: `1 10010110 000010100 0`. -/
theorem test_encode_header_h1 : encodeHeader false false (hFields false) =
    bin [1, 1,0,0,1,0,1,1,0, 0,0,0,0,1,0,1,0,0, 0] := by decide

/-- H4: `1 10010110 000010100 100000101 1 00000101 000000011`. -/
theorem test_encode_header_h4 : encodeHeader false true (hFields true) =
    bin [1, 1,0,0,1,0,1,1,0, 0,0,0,0,1,0,1,0,0, 1,0,0,0,0,0,1,0,1, 1, 0,0,0,0,0,1,0,1,
      0,0,0,0,0,0,0,1,1] := by decide

/-- H1 as bytes: `CB 05 00`, 19 bits. -/
theorem test_header_bytes : bytesOfBits (encodeHeader false false (hFields false)) = [0xCB#8, 0x05#8, 0x00#8] ∧
    bitsOfBytes [0xCB#8, 0x05#8, 0x00#8] 19 = encodeHeader false false (hFields false) := by decide

/-- A placed word is what the next step runs (log entry 11). -/
theorem test_fetch_word : decodeTableWord 8 13 = some .bandNoisePcm ∧
    endsWith (step (State.reset.withFetchWord 8 12)) (fun s => s.result == some 3#8) = true := by decide

/-! ### Cursors (M) -/

/-- The buffer of M1 to M11: `10110011 01`. -/
def mBuf : Bits := bin [1,0,1,1,0,0,1,1,0,1]

theorem test_m1 : Cursor.read .fault ⟨mBuf, 0⟩ 3 = some (5, ⟨mBuf, 3⟩) := by decide
theorem test_m2 : Cursor.read .fault ⟨mBuf, 3⟩ 7 = some (77, ⟨mBuf, 10⟩) := by decide
theorem test_m3 : Cursor.read .fault ⟨mBuf, 10⟩ 0 = some (0, ⟨mBuf, 10⟩) := by decide
theorem test_m5 : Cursor.read .fault ⟨mBuf, 8⟩ 3 = none := by decide
theorem test_m8 : Cursor.carve .fault ⟨mBuf, 3⟩ 5 = some (⟨bin [1,0,0,1,1], 0⟩, ⟨mBuf, 8⟩) := by decide
theorem test_m10 : Cursor.carve .fault ⟨mBuf, 3⟩ 8 = none := by decide

/-! ### Header Parser (H) -/

/-- H4 and its registers. -/
theorem test_h4 : endsWith (exec .cmdHdr { onMain (encodeHeader false true (hFields true)) with
      isEightShort := some false, noiseUsed := some true }) (fun s =>
    decide (s.main.map Cursor.pos = some 45 ∧ s.lengthOfRvlcSf = some 11#11 ∧ s.dpcmNoiseNrg = some 261#9 ∧
      s.sfEscapesPresent = some true ∧ s.lengthOfRvlcEscapes = some 5#8 ∧
      s.dpcmNoiseLastPosition = some 3#9 ∧ s.revGlobalGain = some 150#8 ∧ s.sfConcealment = some true ∧
      s.result = some 0#8 ∧ s.hdrDone = true)) = true := by decide

/-- H10: all ones, eight-short, noise, 47 bits. -/
theorem test_h10 : endsWith (exec .cmdHdr { onMain (List.replicate 47 true) with
      isEightShort := some true, noiseUsed := some true }) (fun s =>
    decide (s.main.map Cursor.pos = some 47 ∧ s.lengthOfRvlcSf = some 2038#11)) = true := by decide

/-- H13: raw length 8. -/
theorem test_h13 : endsWith (exec .cmdHdr { onMain
      (bin [0, 0,0,0,0,0,0,0,0, 0,0,0,0,0,1,0,0,0, 1,0,0,0,0,0,0,0,0, 0]) with
      isEightShort := some false, noiseUsed := some true }) (fun s =>
    decide (s.refused = some .lenSfUnderflow ∧ s.main.map Cursor.pos = some 27)) = true := by decide

/-- H15: the stream ends before the escape flag. -/
theorem test_h15 : endsWith (exec .cmdHdr { onMain
      (bin [1, 1,0,0,1,0,1,1,0, 0,0,0,0,1,0,1,0,0]) with
      isEightShort := some false, noiseUsed := some false }) (fun s =>
    decide (s.fault = some (.cursorOverrun .main) ∧ s.lengthOfRvlcSf = some 20#11 ∧
      s.phase = .hdr .escPresent)) = true := by decide

/-- H19: an input was never written. -/
theorem test_h19 : endsWith (exec .cmdHdr { onMain (List.replicate 47 false) with noiseUsed := some true })
    (fun s => decide (s.fault = some (.unwrittenRead .isEightShort))) = true := by decide

/-! ### Segment Carver (C) -/

/-- C1. -/
theorem test_c1 : endsWith (exec .carveSf { onMain (bin [0,1,0,1,1,0,1]) with lengthOfRvlcSf := some 4#11 })
    (fun s => decide (s.sf = some ⟨bin [0,1,0,1], 0⟩ ∧ s.main.map Cursor.pos = some 4)) = true := by decide

/-- C4: an escape segment of length 0 is carved. -/
theorem test_c4 : endsWith (exec .carveEsc { onMain (bin [1,1]) with
      sfEscapesPresent := some true, lengthOfRvlcEscapes := some 0#8 })
    (fun s => decide (s.esc = some ⟨[], 0⟩)) = true := by decide

/-- C5: a stale escape length is not used. -/
theorem test_c5 : endsWith (exec .carveEsc { onMain (bin [1,1]) with
      sfEscapesPresent := some false, lengthOfRvlcEscapes := some 200#8 })
    (fun s => decide (s.esc = none ∧ s.main.map Cursor.pos = some 0 ∧ s.fault = none)) = true := by decide

/-- C10. -/
theorem test_c10 : endsWith (exec .release (onBand [] [])) (fun s => decide (s.sf = none ∧ s.esc = none)) = true := by
  decide

/-! ### Walks (W) and `HUFF_SF` (E) -/

theorem test_w6 : walkOf demoSf (bin [1,1,1,0,0]) = some (99, 5) := by decide
theorem test_w8 : walkOf demoSf (bin [1,1,1,1,0,0,0,0,0,0]) = some (99, 10) := by decide
theorem test_w11 : walkOf demoSf (bin [1,1,1,1]) = none := by decide
theorem test_w14 : walkOf demoEsc (bin [1,1,1] ++ List.replicate 18 false) = some (99, 21) := by decide
theorem test_w30 : walkOf candSf (bin [1,1,0,1,0,1,0,1,0]) = some (99, 9) := by decide
theorem test_w37 : walkOf candEsc (bin [0,1,1,1,0,0,1,1,1,0,0,1,1,0,0,0,1,0,0]) = some (53, 19) := by decide
theorem test_w39 : walkOf candEsc (bin [0,1,1,1,0,0,1,1,1,0,0,1,1,0,0,1,1,1,1,1]) = some (48, 20) := by decide

/-- E7. The delta register is the caller's to write (R37, R121). -/
theorem test_e7 : endsWith (exec .huffSf (onBand (bin [1,1,0,1]) (bin [1,1,0]))) (fun s =>
    decide (s.huffValue = some (-4) ∧ s.t = none ∧ s.sf.map Cursor.pos = some 4 ∧ s.esc.map Cursor.pos = some 3)) = true := by decide

/-- E8: the escape lookup ends at the sentinel. -/
theorem test_e8 : endsWith (exec .huffSf (onBand (bin [1,1,0,0]) (bin [1,1,1] ++ List.replicate 18 false)))
    (fun s => decide (s.huffValue = some 99 ∧ s.t = none ∧ s.esc.map Cursor.pos = some 21)) = true := by decide

/-! ### Forward Decoder (F, B) -/

/-- F3. -/
theorem test_f3 : endsWith (exec .fwdInit { onBand [] [] with globalGain := some 255 }) (fun s =>
    decide (s.scaleFactor = some 255 ∧ s.noiseEnergy = some 165 ∧ s.isPosition = some 0 ∧
      s.noisePcmFlag = some true ∧ s.decState = some .normal ∧ s.pc = some ⟨0, 0⟩)) = true := by decide

/-- F5: 52 bands. -/
theorem test_f5 : endsWith (exec .fwdInit { onBand [] [] with maxSfb := some 52#6 }) (fun s =>
    decide (s.refused = some .indexRange)) = true := by decide

/-- B1. -/
theorem test_b1 : endsWith (exec .bandZero (onBand [] [])) (fun s =>
    decide (s.mem.scaleFactors = [((0, 0), 0)] ∧ s.scaleFactor = some 100)) = true := by decide

/-- B3. -/
theorem test_b3 : endsWith (exec .bandIntensity (onBand (bin [1,1,0,1]) (bin [1,1,0]))) (fun s =>
    decide (s.t = some (-4) ∧ s.isPosition = some (-5) ∧ s.mem.scaleFactors = [((0, 0), -5)])) = true := by decide

/-- B4, from -5. -/
theorem test_b4 : endsWith (exec .bandIntensity2 { onBand (bin [1,1,1,0,1]) [] with isPosition := some (-5) })
    (fun s => decide (s.isPosition = some (-2) ∧ s.mem.scaleFactors = [((0, 0), -2)])) = true := by decide

/-- B5: concealment keeps the baseline. -/
theorem test_b5 : endsWith (exec .bandIntensity (onBand (bin [1,1,1,0,0]) [])) (fun s =>
    decide (s.isPosition = some (-1) ∧ s.mem.scaleFactors = [((0, 0), 0)] ∧
      s.decState = some .concealed)) = true := by decide

/-- B6. -/
theorem test_b6 : endsWith (exec .bandNoisePcm (onBand [] [])) (fun s =>
    decide (s.noiseEnergy = some 15 ∧ s.mem.scaleFactors = [((0, 0), 15)] ∧
      s.noisePcmFlag = some false)) = true := by decide

/-- B10: the other signed reading of the literal. -/
theorem test_b10 : endsWith (exec .bandNoisePcm { onBand [] [] with
      cfg := { demoConfig with noiseLiteral := .twosComplement } }) (fun s =>
    decide (s.noiseEnergy = some (-241))) = true := by decide

/-- B12, from 15. -/
theorem test_b12 : endsWith (exec .bandNoiseDpcm { onBand (bin [1,0,0]) [] with noiseEnergy := some 15 })
    (fun s => decide (s.noiseEnergy = some 14 ∧ s.mem.scaleFactors = [((0, 0), 14)])) = true := by decide

/-- B13. -/
theorem test_b13 : endsWith (exec .bandBookscl (onBand [] [])) (fun s =>
    decide (s.decState = some (.aborted .invalidCodebook) ∧ s.result = some 3#8 ∧
      s.mem.scaleFactors = [] ∧ s.pc = some ⟨0, 0⟩)) = true := by decide

/-- B15: exactly 0 is legal. -/
theorem test_b15 : endsWith (exec (.bandSpectral 5#4) { onBand (bin [1,1,0,1]) (bin [1,0]) with
      scaleFactor := some 3 }) (fun s =>
    decide (s.scaleFactor = some 0 ∧ s.mem.scaleFactors = [((0, 0), 0)] ∧ s.result = none)) = true := by decide

/-- B16. -/
theorem test_b16 : endsWith (exec (.bandSpectral 5#4) { onBand (bin [1,1,0,1]) (bin [1,0]) with
      scaleFactor := some 2 }) (fun s =>
    decide (s.scaleFactor = some (-1) ∧ s.mem.scaleFactors = [] ∧ s.result = some 4#8 ∧
      s.sf.map Cursor.pos = some 4)) = true := by decide

/-- B19 to B21, as a step: the codebook of a concealed band is not looked at. -/
theorem test_b20 : endsWith (step { onBand [] [] with decState := some .concealed }) (fun s =>
    decide (s.mem.scaleFactors = [((0, 0), 0)] ∧ s.fault = none ∧ s.pc = some ⟨0, 1⟩ ∧
      s.noisePcmFlag = some true)) = true := by decide

/-- B22. -/
theorem test_b22 : endsWith (exec .bandIntensity { onBand (bin [1,0,1]) [] with isPosition := some 32767 })
    (fun s => decide (s.refused = some .accOverflow ∧ s.isPosition = some 32767)) = true := by decide

/-! ### Commands (Q, P) -/

/-- Q1, P8f. -/
theorem test_q1 : endsWith (exec .cmdDec demo) (fun s => decide (s.refused = some .decodeBeforeHeader)) = true := by
  decide

/-- P3, with two groups of two bands: `SPEC BOOKSCL`, `SPEC SPEC`. -/
theorem test_p3 : endsWith (exec .cmdDec { onDec (bin [1,0,1, 1,0,1, 1,0,1, 0,1,1,0]) [1#4, 12#4, 1#4, 1#4] with
      lengthOfRvlcSf := some 9#11 }) (fun s =>
    decide (s.result = some 3#8 ∧ s.main.map Cursor.pos = some 9 ∧ s.mem.scaleFactors = [((0, 0), 11)] ∧
      s.phase = .idle ∧ s.sf = none)) = true := by decide

/-- P8c: a segment that was never carved. -/
theorem test_p8c : endsWith (exec .cmdDec { onDec [] [0#4, 1#4] with lengthOfRvlcSf := some 0#11 }) (fun s =>
    decide (s.fault = some (.cursorOverrun .sf) ∧ s.phase = .idle ∧ s.mem.scaleFactors = [((0, 0), 0)])) = true := by
  decide

/-- Every operation answers a next state. -/
theorem test_exec_next (i : Instr) (s : State) : ∃ t, exec i s = .next t := by
  cases i <;> exact ⟨_, rfl⟩

/-! ### Witnesses: the hypotheses of each obligation hold together -/

theorem witness_MemReadIsMsbFirst : 3 + 7 ≤ mBuf.length := by decide

theorem witness_ByteBufferBitOrder :
    (9 < 10 ∧ 10 ≤ 8 * [0xB3#8, 0x40#8].length) ∧
      8 * 1 + 8 ≤ 16 ∧ 16 ≤ 8 * [0xB3#8, 0x40#8].length := by decide

theorem witness_SuccessiveReadsConcatenate : (⟨mBuf, 0⟩ : Cursor).pos + (3 + 7) ≤ (⟨mBuf, 0⟩ : Cursor).len := by
  decide

theorem witness_ZeroBitReadNeverOverruns : 0 < 1 ∧ (⟨mBuf, 10⟩ : Cursor).len < (⟨mBuf, 10⟩ : Cursor).pos + 1 := by
  decide

theorem witness_CarveCopiesAndRealigns : (⟨mBuf, 3⟩ : Cursor).pos + 7 ≤ (⟨mBuf, 3⟩ : Cursor).len := by decide

theorem witness_HdrSfcReadsConcealmentBit : AtBits (onMain [true]) [] [true] [] := rfl

theorem witness_HdrRggReadsGlobalGain :
    AtBits (onMain (bin [1,1,1,1,1,1,1,1, 0])) [] (bitsOf 8 (255#8).toNat) [false] := rfl

theorem witness_HdrLenSfReadsRawLength :
    ((511#11).toNat < 512 ∧ AtBits (onMain (bitsOf 9 511)) [] (bitsOf 9 (511#11).toNat) []) ∧
      AtBits (onMain (bitsOf 11 2047)) [] (bitsOf 11 (2047#11).toNat) [] := ⟨⟨by decide, rfl⟩, rfl⟩

/-- Raw length 9 (H12) and 8 (H13). -/
theorem witness_HdrNoiseNrgAdjustsLength :
    (AtBits { onMain (bitsOf 9 256) with lengthOfRvlcSf := some 9#11 } [] (bitsOf 9 (256#9).toNat) [] ∧
      9 ≤ (9#11).toNat) ∧
    AtBits { onMain (bitsOf 9 256) with lengthOfRvlcSf := some 8#11 } [] (bitsOf 9 (256#9).toNat) [] ∧
      (8#11).toNat < 9 := ⟨⟨rfl, by decide⟩, rfl, by decide⟩

theorem witness_HdrEscPresentReadsFlag : AtBits (onMain [false, true]) [] [false] [true] := rfl

theorem witness_HdrLenEscReadsEscapeLength : AtBits (onMain (bitsOf 8 5)) [] (bitsOf 8 (5#8).toNat) [] := rfl

theorem witness_HdrNoiseLastposStoredRaw : AtBits (onMain (bitsOf 9 511)) [] (bitsOf 9 (511#9).toNat) [] := rfl

/-- Every header field, one bit short: an empty stream. -/
theorem witness_FaultsWhenShort :
    (∀ e ∈ headerWidths, MainShort (onMain []) e.2) ∧ (onMain []).cfg.overrunPolicy = .fault := by
  refine ⟨fun e he => ⟨⟨[], 0⟩, rfl, ?_⟩, rfl⟩
  revert e
  decide

theorem witness_HeaderReadsOfUnwrittenStateFault_main :
    (Instr.hdrRgg, 8) ∈ headerWidths ∧ demo.main = none := by decide

/-- Nine bits, and `is_eight_short` unwritten (H19). -/
theorem witness_HeaderReadsOfUnwrittenStateFault_short :
    let s := onMain (List.replicate 9 false)
    s.phase = .idle ∧ s.main = some ⟨List.replicate 9 false, 0⟩ ∧
      0 + 9 ≤ (List.replicate 9 false).length ∧ s.isEightShort = none := by decide

/-- Twenty bits, and `noise_used` unwritten (H19). -/
theorem witness_HeaderReadsOfUnwrittenStateFault_noise :
    let s := { onMain (List.replicate 20 false) with isEightShort := some true }
    s.phase = .idle ∧ s.main = some ⟨List.replicate 20 false, 0⟩ ∧
      0 + 20 ≤ (List.replicate 20 false).length ∧ s.isEightShort ≠ none ∧ s.noiseUsed = none := by decide

/-- The header of H4, and raw length 9 with noise (H12). -/
theorem witness_CmdHdrInvertsHeaderEncoding :
    let s := { onMain (encodeHeader false true { hFields true with rawLength := 9#11 }) with
      isEightShort := some false, noiseUsed := some true }
    s.phase = .idle ∧ s.isEightShort = some false ∧ s.noiseUsed = some true ∧
      (9#11).toNat < 512 ∧ 9 ≤ (9#11).toNat ∧
      AtBits s [] (encodeHeader false true { hFields true with rawLength := 9#11 }) [] :=
  ⟨rfl, rfl, rfl, by decide, by decide, rfl⟩

theorem witness_CmdHdrRefusesShortNoiseLength :
    let s := { onMain (encodeHeader false true { hFields true with rawLength := 8#11 }) with
      isEightShort := some false, noiseUsed := some true }
    s.phase = .idle ∧ s.isEightShort = some false ∧ s.noiseUsed = some true ∧ (8#11).toNat < 9 ∧
      AtBits s [] (encodeHeader false true { hFields true with rawLength := 8#11 }) [] :=
  ⟨rfl, rfl, rfl, by decide, rfl⟩

theorem witness_HeaderOpsLeaveDecoderAlone : headerOps .cmdHdr = true ∧ ∃ t, exec .cmdHdr demo = .next t :=
  ⟨rfl, _, rfl⟩

/-- No length, length 1 with its bit, length 0, and length 1 with nothing left. -/
theorem witness_CarveSfCarvesPositiveLength :
    demo.lengthOfRvlcSf = none ∧
    (0 < (1#11).toNat ∧ [true].length = (1#11).toNat ∧
      AtBits { onMain [true] with lengthOfRvlcSf := some 1#11 } [] [true] []) ∧
    ({ demo with lengthOfRvlcSf := some 0#11 } : State).lengthOfRvlcSf = some 0#11 ∧
    MainShort { onMain [] with lengthOfRvlcSf := some 1#11 } (1#11).toNat :=
  ⟨rfl, ⟨by decide, by decide, rfl⟩, rfl, _, rfl, by decide⟩

/-- No flag, a clear flag, a set flag without a length, length 0, and length 1 with nothing left. -/
theorem witness_CarveEscFollowsEscapesPresent :
    demo.sfEscapesPresent = none ∧
    ({ demo with sfEscapesPresent := some false } : State).sfEscapesPresent = some false ∧
    ({ demo with sfEscapesPresent := some true } : State).lengthOfRvlcEscapes = none ∧
    ([] : Bits).length = (0#8).toNat ∧
    AtBits { onMain [] with sfEscapesPresent := some true, lengthOfRvlcEscapes := some 0#8 } [] [] [] ∧
    MainShort { onMain [] with sfEscapesPresent := some true, lengthOfRvlcEscapes := some 1#8 } (1#8).toNat :=
  ⟨rfl, rfl, rfl, by decide, rfl, _, rfl, by decide⟩

/-- W6 and W16: segments that end with the codeword. -/
theorem witness_WalkReturnsFirstMatchingEntry :
    let s := onBand (bin [1,1,1,0,0]) (bin [1,1,0])
    s.cfg.wf = true ∧
      (s.sf = some ⟨[] ++ bin [1,1,1,0,0], ([] : Bits).length⟩ ∧
        (codeAt s.cfg.tSf (bin [1,1,1,0,0])).2 ≤ (bin [1,1,1,0,0]).length) ∧
      s.esc = some ⟨[] ++ bin [1,1,0], ([] : Bits).length⟩ ∧
        (codeAt s.cfg.tEsc (bin [1,1,0])).2 ≤ (bin [1,1,0]).length :=
  ⟨by decide, ⟨rfl, by decide⟩, rfl, by decide⟩

/-- W11: the segment ends inside the codeword; and a segment that was not carved. -/
theorem witness_WalkShortOfBitsFaults :
    (demo.cfg.wf = true ∧ demo.cfg.overrunPolicy = .fault ∧ LookupShort demo .esc) ∧
      LookupShort (onBand (bin [1,1,1,1]) []) .sf :=
  ⟨⟨by decide, rfl, .inl rfl⟩, .inr ⟨[], _, rfl, by decide⟩⟩

/-- W8 and W14: both bounds are reached. -/
theorem witness_WalkConsumptionBounded :
    let s := onBand (List.replicate 10 true) (List.replicate 21 true)
    s.cfg.wf = true ∧
      (∃ c t, c.pos ≤ c.len ∧ s.sf = some c ∧ exec .walkSf s = .next t ∧
        t.sf = some { c with pos := c.pos + 10 }) ∧
      ∃ c t, c.pos ≤ c.len ∧ s.esc = some c ∧ exec .walkEsc s = .next t ∧
        t.esc = some { c with pos := c.pos + 21 } :=
  ⟨by decide, ⟨_, _, by decide, rfl, rfl, by decide⟩, _, _, by decide, rfl, rfl, by decide⟩

/-- The primary codeword `100` of set DEMO is the delta -1. -/
theorem deltaAt_minus_one (s : State) (hc : s.cfg = demoConfig) (hs : s.sf = some ⟨bin [1,0,0], 0⟩) :
    ∃ s', DeltaAt s (-1) s' := by
  refine ⟨_, _, ⟨-1, _, ⟨[], bin [1,0,0], hs, ?_, ?_, rfl⟩, .inl ⟨?_, rfl, rfl⟩⟩, rfl⟩
  · rw [hc]; decide
  · rw [hc]; decide
  · rw [hc]; unfold IsMarker; decide

/-- The primary codeword `1101` and the escape codeword `10` are the delta -3 (E6). -/
theorem huffAt_minus_three : ∃ s', HuffAt (onBand (bin [1,1,0,1]) (bin [1,0])) (-3) s' := by
  refine ⟨_, -2, _, ⟨[], bin [1,1,0,1], rfl, by decide, by decide, rfl⟩, .inr ⟨?_, 1, _,
    ⟨[], bin [1,0], rfl, by decide, by decide, rfl⟩, by decide, rfl⟩⟩
  unfold IsMarker
  decide

/-- The primary codeword `11100` is the delta 99 (E9). -/
theorem deltaAt_nomatch (s : State) (hc : s.cfg = demoConfig) (hs : s.sf = some ⟨bin [1,1,1,0,0], 0⟩) :
    ∃ s', DeltaAt s 99 s' := by
  refine ⟨_, _, ⟨99, _, ⟨[], bin [1,1,1,0,0], hs, ?_, ?_, rfl⟩, .inl ⟨?_, rfl, rfl⟩⟩, rfl⟩
  · rw [hc]; decide
  · rw [hc]; decide
  · rw [hc]; unfold IsMarker; decide

/-- E13: the marker is there and the escape segment is not. -/
theorem deltaShort_esc : DeltaShort { onBand (bin [1,1,0,0]) [] with esc := none } .esc := by
  refine .inr ⟨rfl, 2, _, ⟨[], bin [1,1,0,0], rfl, by decide, by decide, rfl⟩, ?_, .inl rfl⟩
  unfold IsMarker
  decide

theorem witness_HuffSfComposesEscape :
    demo.cfg.wf = true ∧ (∃ d s', HuffAt (onBand (bin [1,1,0,1]) (bin [1,0])) d s') ∧
      ∃ s : State, s.cfg.wf = true ∧ s.cfg.overrunPolicy = .fault ∧ DeltaShort s .esc :=
  ⟨by decide, ⟨_, huffAt_minus_three⟩, _, by decide, rfl, deltaShort_esc⟩

/-- Groups and bands at their largest with a gain, the same without one, and one band too many (F5). -/
theorem witness_FwdInitStartsTheRun :
    let s := { demo with numWindowGroups := some 8#4, maxSfb := some 51#6, globalGain := some 255 }
    (s.numWindowGroups = some 8#4 ∧ s.maxSfb = some 51#6 ∧ (8#4).toNat ≤ s.cfg.maxGroups ∧
      (51#6).toNat ≤ s.cfg.maxSfb ∧ s.globalGain = some 255) ∧
    ({ s with globalGain := none } : State).globalGain = none ∧ s.cfg.maxSfb < (52#6).toNat ∧
      demo.numWindowGroups = none ∧ ({ s with maxSfb := none } : State).maxSfb = none :=
  ⟨⟨rfl, rfl, by decide, by decide, rfl⟩, rfl, by decide, rfl, rfl⟩

theorem atElement_onBand (a b : Bits) : AtElement (onBand a b) ⟨0, 0⟩ := ⟨rfl, rfl⟩

theorem witness_ZeroFillBandsWriteZero : AtElement (onBand [] []) ⟨0, 0⟩ := atElement_onBand _ _

theorem witness_IntensityBandsShareBaseline :
    let s := onBand (bin [1,0,0]) []
    s.cfg.wf = true ∧ AtElement s ⟨0, 0⟩ ∧ s.isPosition = some (-1) ∧ (∃ s₁, DeltaAt s (-1) s₁) ∧
      (-1 : Int) ≠ 99 ∧ accFits s.cfg (-1 + -1) = true :=
  ⟨by decide, atElement_onBand _ _, rfl, deltaAt_minus_one _ rfl rfl, by decide, by decide⟩

/-- The sum at the top of the range; the baseline without a literal (B11); a tabulated function. -/
theorem witness_FirstNoiseBandTakesLiteral :
    let s := { onBand [] [] with noiseEnergy := some 32762 }
    (AtElement s ⟨0, 0⟩ ∧ s.noiseEnergy = some 32762 ∧ s.dpcmNoiseNrg = some 261#9 ∧
      accFits s.cfg (32762 + noiseLiteralOf s.cfg.noiseLiteral 261#9) = true) ∧
    (s.noiseEnergy = some 32762 ∧ ({ s with dpcmNoiseNrg := none } : State).dpcmNoiseNrg = none) ∧
    (List.replicate 512 (7 : Int)).length = 512 :=
  ⟨⟨atElement_onBand [] [], rfl, rfl, by decide⟩, ⟨rfl, rfl⟩, List.length_replicate⟩

theorem witness_LaterNoiseBandAddsDelta :
    let s := onBand (bin [1,0,0]) []
    s.cfg.wf = true ∧ AtElement s ⟨0, 0⟩ ∧ s.noiseEnergy = some 10 ∧ (∃ s₁, DeltaAt s (-1) s₁) ∧
      (-1 : Int) ≠ 99 ∧ accFits s.cfg (10 + -1) = true :=
  ⟨by decide, atElement_onBand _ _, rfl, deltaAt_minus_one _ rfl rfl, by decide, by decide⟩

/-- A sum of exactly 0, and one of -1. -/
theorem witness_SpectralBandAddsOrAborts :
    let s := fun v => { onBand (bin [1,0,0]) [] with scaleFactor := some v }
    (∀ v, (s v).cfg.wf = true ∧ AtElement (s v) ⟨0, 0⟩ ∧ (s v).scaleFactor = some v ∧
      ∃ s₁, DeltaAt (s v) (-1) s₁) ∧
    (accFits demoConfig (1 + -1) = true ∧ (0 : Int) ≤ 1 + -1) ∧
    accFits demoConfig (0 + -1) = true ∧ (0 : Int) + -1 < 0 :=
  ⟨fun _ => ⟨demoConfig_wf, ⟨rfl, rfl⟩, rfl, deltaAt_minus_one _ rfl rfl⟩, by decide, by decide⟩

theorem witness_NomatchDeltaConceals :
    let s := onBand (bin [1,1,1,0,0]) []
    s.cfg.wf = true ∧ AtElement s ⟨0, 0⟩ ∧ ∃ s₁, DeltaAt s 99 s₁ :=
  ⟨by decide, atElement_onBand _ _, deltaAt_nomatch _ rfl rfl⟩

/-- The lowest value of each baseline, one below it after the delta -1; and the literal 261 at the top. -/
theorem witness_BaselineOverflowRefused :
    let s := { onBand (bin [1,0,0]) [] with
      isPosition := some (-32768), noiseEnergy := some (-32768), scaleFactor := some (-32768) }
    (s.cfg.wf = true ∧ (∃ s₁, DeltaAt s (-1) s₁) ∧ (-1 : Int) ≠ 99 ∧
      accFits s.cfg (-32768 + -1) = false ∧ s.isPosition = some (-32768) ∧
      s.noiseEnergy = some (-32768) ∧ s.scaleFactor = some (-32768)) ∧
    ({ s with noiseEnergy := some 32763 } : State).dpcmNoiseNrg = some 261#9 ∧
      accFits s.cfg (32763 + noiseLiteralOf s.cfg.noiseLiteral 261#9) = false :=
  ⟨⟨by decide, deltaAt_minus_one _ rfl rfl, by decide, by decide, rfl, rfl, rfl⟩, rfl, by decide⟩

theorem witness_WalkFaultEndsBand :
    (∃ s : State, s.cfg.wf = true ∧ s.cfg.overrunPolicy = .fault ∧ DeltaShort s .esc) ∧
      DeltaShort (onBand (bin [1,1,1,1]) []) .sf :=
  ⟨⟨_, by decide, rfl, deltaShort_esc⟩, .inl ⟨rfl, .inr ⟨[], _, rfl, by decide⟩⟩⟩

theorem witness_BandOpsWriteOnlyTheirElement :
    bandOps .bandZero = true ∧ (∃ t, exec .bandZero (onBand [] []) = .next t) ∧
      (onBand [] []).pc ≠ some ⟨0, 1⟩ := ⟨rfl, ⟨_, rfl⟩, by decide⟩

theorem witness_DecoderOpsLeaveHeaderAlone : decoderOps .huffSf = true ∧ ∃ t, exec .huffSf demo = .next t :=
  ⟨rfl, _, rfl⟩

theorem witness_InputsAreNeverWritten : ∃ t, exec .cmdDec demo = .next t := ⟨_, rfl⟩

theorem witness_CommandsRefusedWhenNotAcceptable :
    (onBand [] []).phase ≠ .idle ∧ demo.phase = .idle ∧ demo.hdrDone = false := by decide

theorem witness_CmdDecReleasesOnEveryPath : (onDec [] []).phase = .idle ∧ (onDec [] []).hdrDone = true := by decide

/-- Three bits, all of the segment; and the same run seen from its end, unmarked. -/
theorem witness_CmdDecKeepsOuterStreamInStep :
    let s := onDec (bin [1,0,1]) [1#4, 0#4, 0#4, 0#4]
    s.phase = .idle ∧ s.hdrDone = true ∧ s.main = some ⟨bin [1,0,1], 0⟩ ∧ s.lengthOfRvlcSf = some 3#11 ∧
      s.sfEscapesPresent = some false ∧ (∃ t, exec .cmdDec s = .next t ∧ t.fault = none) ∧
      0 + declaredBits 3#11 false 0#8 ≤ (bin [1,0,1]).length ∧ s.cfg.overrunPolicy = .fault :=
  ⟨rfl, rfl, rfl, rfl, rfl, ⟨_, rfl, by decide⟩, by decide, rfl⟩

/-- An unmarked run for each of the results 0 (clean and concealed), 3 and 4. -/
theorem witness_CmdDecResultMatchesState :
    (∃ t, exec .cmdDec (onDec (bin [1,0,1]) [1#4, 0#4, 0#4, 0#4]) = .next t ∧ t.marked = false ∧
      t.decState = some .normal) ∧
    (∃ t, exec .cmdDec { onDec (bin [1,1,1,0,0]) [1#4, 12#4, 0#4, 0#4] with lengthOfRvlcSf := some 5#11 } =
      .next t ∧ t.marked = false ∧ t.decState = some .concealed) ∧
    (∃ t, exec .cmdDec (onDec (bin [1,0,1]) [1#4, 12#4, 0#4, 0#4]) = .next t ∧ t.marked = false ∧
      t.result = some 3#8) ∧
    ∃ t, exec .cmdDec { onDec (bin [1,0,0]) [1#4, 0#4, 0#4, 0#4] with globalGain := some 0 } = .next t ∧
      t.marked = false ∧ t.result = some 4#8 :=
  ⟨⟨_, rfl, by decide, by decide⟩, ⟨_, rfl, by decide, by decide⟩, ⟨_, rfl, by decide, by decide⟩,
    _, rfl, by decide, by decide⟩

/-- The concealed run of those: it entered concealment at its first band, `(0, 0)`. -/
theorem witness_CmdDecOutputTable :
    let s := { onDec (bin [1,1,1,0,0]) [1#4, 12#4, 0#4, 0#4] with lengthOfRvlcSf := some 5#11 }
    (∃ t, exec .cmdDec s = .next t ∧ t.marked = false ∧ t.decState = some .concealed ∧
      t.result = some 0#8 ∧ element t 1 1 = some 0 ∧ element t 1 2 = none) ∧
    (∃ u, ConcealsAt s ⟨0, 0⟩ u) ∧ InRange s 0 0 :=
  ⟨⟨_, rfl, by decide, by decide, by decide, by decide, by decide⟩,
    ⟨_, 0, _, ⟨_, _, _, rfl, rfl, rfl, rfl⟩, rfl, rfl, rfl, rfl⟩, by decide, by decide⟩

theorem launch_onDec (cbs : List (BitVec 4)) :
    Launch (onDec (bin [1,0,1]) cbs) ⟨bin [1,0,1], 0⟩ 3#11 false 0#8 2#4 2#6 10 :=
  ⟨rfl, rfl, rfl, rfl, rfl, rfl, nofun,
    (by decide : 0 + declaredBits 3#11 false 0#8 ≤ 3), rfl, rfl, rfl, (by decide : (2#4).toNat ≤ 8),
    (by decide : (2#6).toNat ≤ 51)⟩

theorem inRange_onDec {b : Bits} {cbs : List (BitVec 4)} {g sfb : Nat} (h : InRange (onDec b cbs) g sfb) :
    (g = 0 ∨ g = 1) ∧ (sfb = 0 ∨ sfb = 1) := by
  have h₁ : g < 2 := h.1
  have h₂ : sfb < 2 := h.2
  omega

theorem witness_CmdDecOfZeroBandsCompletes :
    Launch (onDec (bin [1,0,1]) []) ⟨bin [1,0,1], 0⟩ 3#11 false 0#8 2#4 2#6 10 ∧
      ∀ g sfb, InRange (onDec (bin [1,0,1]) []) g sfb →
        cellRead g sfb (onDec (bin [1,0,1]) []).mem.sfbCb = some 0#4 := by
  refine ⟨launch_onDec _, fun g sfb h => ?_⟩
  obtain ⟨rfl | rfl, rfl | rfl⟩ := inRange_onDec h <;> rfl

/-- The INVALID band is the last one, `(1, 1)`. -/
theorem witness_CmdDecStopsAtInvalidBand :
    let s := onDec (bin [1,0,1]) [0#4, 0#4, 0#4, 12#4]
    Launch s ⟨bin [1,0,1], 0⟩ 3#11 false 0#8 2#4 2#6 10 ∧ InRange s 1 1 ∧
      cellRead 1 1 s.mem.sfbCb = some 12#4 ∧
      ∀ g sfb, InRange s g sfb → keyLt (g, sfb) (1, 1) = true → cellRead g sfb s.mem.sfbCb = some 0#4 := by
  refine ⟨launch_onDec _, ⟨by decide, by decide⟩, rfl, fun g sfb h hk => ?_⟩
  obtain ⟨rfl | rfl, rfl | rfl⟩ := inRange_onDec h <;> first | rfl | exact absurd hk (by decide)

/-- The deltas of set DEMO lie within 60: its primary values are -2 to 3, its escape values 0 to 2. -/
theorem demo_deltas :
    (∀ e : RomEntry, e ∈ demoConfig.tSf.entries → e.val = 99 ∨ -60 ≤ e.val ∧ e.val ≤ 60) ∧
      ∀ e : RomEntry, e ∈ demoConfig.tEsc.entries → e.val = 99 ∨ e.val + demoConfig.escVal ≤ 60 :=
  ⟨(by decide : ∀ e ∈ demoSf.entries, e.val = 99 ∨ -60 ≤ e.val ∧ e.val ≤ 60),
    (by decide : ∀ e ∈ demoEsc.entries, e.val = 99 ∨ e.val + demoConfig.escVal ≤ 60)⟩

/-- The largest gain, and a run that decodes the delta 1 at its first band. -/
theorem witness_DefaultWidthsNeverOverflow :
    let s := { onDec (bin [1,0,1]) [1#4, 0#4, 0#4, 0#4] with globalGain := some 255 }
    s.phase = .idle ∧ s.hdrDone = true ∧ s.marked = false ∧ s.cfg.wf = true ∧ s.cfg.accW = 16 ∧
      s.cfg.maxGroups * s.cfg.maxSfb ≤ 408 ∧ s.cfg.noiseLiteral = .offsetBinary ∧
      s.globalGain = some 255 ∧
      ∃ t, exec .cmdDec s = .next t ∧ t.marked = false ∧ element t 0 0 = some 256 :=
  ⟨rfl, rfl, rfl, demoConfig_wf, rfl, by decide, rfl, rfl, _, rfl, by decide, by decide⟩

theorem quiet_of_host {s : State} (hm : s.marked = false) (hp : s.phase ≠ .idle) (hh : s.host = []) : Quiet s :=
  ⟨hm, hp, fun w rest h => by rw [hh] at h; cases h⟩

theorem witness_StepRunsDecodedOperation_band :
    let s := { onBand [] [] with mem := ⟨[((0, 0), 13#4)], []⟩ }
    Quiet s ∧ s.phase = .decode .band ∧ s.decState = some .normal ∧ s.pc = some ⟨0, 0⟩ ∧
      cellRead 0 0 s.mem.sfbCb = some 13#4 ∧ s.noisePcmFlag = some true ∧
      decode (.band .normal true) (bitsOf 4 (13#4).toNat) = .instr .bandNoisePcm :=
  ⟨quiet_of_host rfl nofun rfl, rfl, rfl, rfl, rfl, rfl, by decide⟩

theorem witness_StepRunsDecodedOperation_header :
    let s := { onMain [] with phase := .hdr .lenSf, isEightShort := some true }
    Quiet s ∧ s.phase = .hdr .lenSf ∧ s.isEightShort = some true ∧
      decode (.header .lenSf true) (bitsOf 11 2047) = .instr .hdrLenSf11 :=
  ⟨quiet_of_host rfl nofun rfl, rfl, rfl, by decide⟩

theorem witness_StepRunsDecodedOperation_segment :
    let s := { demo with phase := .release }
    Quiet s ∧ s.phase = .release :=
  ⟨quiet_of_host rfl nofun rfl, rfl⟩

theorem witness_StepRunsDecodedOperation_command (how : Issue) :
    let s := { demo with host := [.command 1#1 how] }
    s.marked = false ∧ s.phase = .idle ∧ s.host = .command 1#1 how :: [] ∧
      decode .command (bitsOf 1 (1#1).toNat) = .instr .cmdDec :=
  ⟨rfl, rfl, rfl, by decide⟩

theorem witness_ConcealedBandIgnoresCodebook :
    let s := { onBand [] [] with decState := some .concealed }
    Quiet s ∧ s.phase = .decode .band ∧ s.decState = some .concealed ∧ AtElement s ⟨0, 0⟩ ∧
      cellRead 0 0 s.mem.sfbCb = none :=
  ⟨quiet_of_host rfl nofun rfl, rfl, rfl, ⟨rfl, rfl⟩, rfl⟩

theorem witness_UnwrittenCodebookFaults :
    let s := onBand [] []
    Quiet s ∧ s.phase = .decode .band ∧ s.decState = some .normal ∧ s.pc = some ⟨0, 0⟩ ∧
      cellRead 0 0 s.mem.sfbCb = none :=
  ⟨quiet_of_host rfl nofun rfl, rfl, rfl, rfl, rfl⟩

/-- An abort; a band inside a group; the last band of a group; the last band of all. -/
theorem witness_BandPointerAdvances :
    let s := fun p d => { onBand [] [] with pc := some p, numWindowGroups := some 2#4, decState := some d }
    (∀ p d, (s p d).marked = false ∧ (s p d).phase = .decode .band ∧ (s p d).pc = some p ∧
      (s p d).numWindowGroups = some 2#4 ∧ (s p d).maxSfb = some 3#6) ∧
    (s ⟨1, 2⟩ (.aborted .invalidCodebook)).aborted = true ∧ (s ⟨1, 2⟩ .normal).aborted = false ∧
    (0 < (2#4).toNat ∧ 1 + 1 < (3#6).toNat) ∧
    ((3#6).toNat = 2 + 1 ∧ 0 + 1 < (2#4).toNat) ∧ 1 < (2#4).toNat ∧ (2#4).toNat = 1 + 1 :=
  ⟨fun _ _ => ⟨rfl, rfl, rfl, rfl, rfl⟩, rfl, rfl, by decide, by decide, by decide, by decide⟩

/-- In every phase, with bands to decode and with none. -/
theorem witness_MicroOperationOrder (ph : Phase) (bands : BitVec 6) :
    let s := { demo with
      phase := ph, noiseUsed := some true, sfEscapesPresent := some false, numWindowGroups := some 1#4
      maxSfb := some bands, pc := some ⟨0, 0⟩ }
    s.marked = false ∧ s.noiseUsed = some true ∧ s.sfEscapesPresent = some false ∧
      s.numWindowGroups = some 1#4 ∧ s.maxSfb = some bands ∧ s.phase = ph ∧ s.pc = some ⟨0, 0⟩ :=
  ⟨rfl, rfl, rfl, rfl, rfl, rfl, rfl⟩

/-- R116, R128: no bands, so the run ends at once. -/
theorem test_no_bands : endsWith (step { onBand [] [] with phase := .decode .init, maxSfb := some 0#6 })
    (fun s => decide (s.result = some 0#8 ∧ s.pc = some ⟨1, 0⟩ ∧ s.phase = .release)) = true := by decide

/-- A fault inside a `CMD_DEC`, a fault elsewhere, a refusal elsewhere. -/
theorem witness_MarkedStateOnlyReleases :
    ((onBand [] []).raiseFault (.cursorOverrun .sf)).marked = true ∧
    ((onBand [] []).raiseFault (.cursorOverrun .sf)).phase.inDec = true ∧
    (demo.raiseFault (.cursorOverrun .main)).phase.inDec = false ∧
    (demo.raiseFault (.cursorOverrun .main)).fault = some (.cursorOverrun .main) ∧
    (demo.refuse .decodeBeforeHeader).marked = true ∧ (demo.refuse .decodeBeforeHeader).fault = none ∧
    (demo.refuse .decodeBeforeHeader).refused = some .decodeBeforeHeader := by decide

theorem witness_IdleWaitsAndBusyRefuses :
    (demo.marked = false ∧ demo.phase = .idle ∧ demo.host = []) ∧
      let s := { onBand [] [] with host := [.command 0#1 .unguarded] }
      s.marked = false ∧ s.phase ≠ .idle ∧ s.host = .command 0#1 .unguarded :: [] :=
  ⟨⟨rfl, rfl, rfl⟩, rfl, nofun, rfl⟩

/-- An act of each kind: the last element and the one after it, a position at the end and after it, a
length that the bytes hold and one that they do not. Then an act that waits while a band is decoded. -/
theorem witness_HostActsOnlyWhenIdle :
    (∀ op, ({ demo with host := [op] } : State).marked = false ∧
      ({ demo with host := [op] } : State).phase = .idle ∧
      ({ demo with host := [op] } : State).host = op :: []) ∧
    (elementExists demo.cfg 7 50 = true ∧ elementExists demo.cfg 7 51 = false) ∧
    (10 ≤ mBuf.length ∧ mBuf.length < 11) ∧
    (16 ≤ 8 * [0xB3#8, 0x40#8].length ∧ 8 * [0xB3#8, 0x40#8].length < 17) ∧
    let s := { onBand [] [] with host := [.loadNoiseUsed true] }
    s.marked = false ∧ s.phase ≠ .idle ∧ ∀ w rest, s.host ≠ .command w .unguarded :: rest :=
  ⟨fun _ => ⟨rfl, rfl, rfl⟩, by decide, by decide, by decide, rfl, nofun, nofun⟩

/-- Inside a run, at a band that gets written. -/
theorem witness_StepKeepsInvariant :
    let s := { onBand [] [] with
      hdrDone := true, lengthOfRvlcSf := some 0#11, sfEscapesPresent := some false
      mem := ⟨[((0, 0), 0#4)], []⟩ }
    s.inv = true ∧ ∃ s', step s = .next s' ∧ s'.pc = some ⟨0, 1⟩ ∧ s'.marked = false :=
  ⟨by decide, _, rfl, by decide, by decide⟩

theorem witness_SteppedCmdHdrIsAtomic : demo.phase = .idle ∧ demo.marked = false ∧ demo.host = [] := by decide

theorem witness_SteppedCmdDecIsAtomic :
    let s := onDec (bin [1,0,1]) [1#4, 0#4, 0#4, 0#4]
    s.phase = .idle ∧ s.marked = false ∧ s.host = [] ∧ s.hdrDone = true := by decide

theorem witness_TableWordsDecode : (bin [0,0,0,0]).length = 4 := rfl

theorem witness_DecodeReadsEncodedOperation :
    (Instr.bandSpectral 11#4).wf = true ∧ (bin [1,0,1]).length ≠ (Slot.band .normal true).width ∧
      (bitsOf 11 2047).length = HdrStep.width true .lenSf := by decide

end Sys2Proof.Tests
end

/-! ## The writes of the operations, and their frames

One inductive relation lists every write that an operation of a class can make to the state; each
operation is walked through once, to show that it is a chain of such writes. A frame, or a fact that
every operation keeps, is then proved write by write. -/

section
namespace Sys2Proof.Machine

/-! ### Chains of writes -/

theorem frameRel_reflTransGen (E : State → State → Prop) : FrameRel (Relation.ReflTransGen E) :=
  ⟨fun _ => .refl, .trans⟩

/-- A frame relation holds along a chain when it holds of each write. -/
theorem FrameRel.of_chain {E R : State → State → Prop} (hR : FrameRel R) (hE : ∀ s t, E s t → R s t)
    {s t : State} (h : Relation.ReflTransGen E s t) : R s t := by
  induction h with
  | refl => exact hR.refl s
  | tail _ hbc ih => exact hR.trans ih (hE _ _ hbc)

/-- To agree on what `f` reads is a frame relation. -/
theorem frameRel_agree {γ : Type} (f : State → γ) : FrameRel fun s t => f t = f s :=
  ⟨fun _ => rfl, fun h₁ h₂ => h₂.trans h₁⟩

/-- To keep a property is a frame relation. -/
theorem frameRel_keeps (P : State → Prop) : FrameRel fun s t => P s → P t :=
  ⟨fun _ h => h, fun h₁ h₂ h => h₂ (h₁ h)⟩

/-- What an operation run as a step leaves. -/
theorem Micro.within_outcome {α : Type} {R : State → State → Prop} {s t : State} {m : Micro α}
    (h : m.within R s) (e : m.outcome = .next t) : R s t := by
  obtain rfl : m.state = t := Host.Outcome.next.inj e
  exact Micro.within_state h

/-! ### The writes -/

/-- The writes of a Header Parser operation (R85 to R92, R139). -/
inductive HeaderEdit : State → State → Prop
  | fault (s : State) (r : Fault) : HeaderEdit s (s.raiseFault r)
  | refuse (s : State) (r : Refusal) : HeaderEdit s (s.refuse r)
  | read {s : State} {c c' : Cursor} (hc : s.main = some c) (hm : CursorMoves c c') :
      HeaderEdit s { s with main := some c' }
  | registers (s : State) (sfc : Option Bool) (rgg : Option (BitVec 8)) (len : Option (BitVec 11))
      (nrg : Option (BitVec 9)) (esc : Option Bool) (lenEsc : Option (BitVec 8))
      (last : Option (BitVec 9)) :
      HeaderEdit s { s with
        sfConcealment := sfc, revGlobalGain := rgg, lengthOfRvlcSf := len, dpcmNoiseNrg := nrg
        sfEscapesPresent := esc, lengthOfRvlcEscapes := lenEsc, dpcmNoiseLastPosition := last }
  | field (s : State) (f : HdrStep) : HeaderEdit s { s with phase := .hdr f }
  | finish (s : State) : HeaderEdit s (endHdr s)

/-- The writes of a walk and of a band operation (R105, R110, R119 to R127, R152). -/
inductive BandEdit : State → State → Prop
  | fault (s : State) (r : Fault) : BandEdit s (s.raiseFault r)
  | refuse (s : State) (r : Refusal) : BandEdit s (s.refuse r)
  | lookup {s s' : State} (h : HuffFrame s s') (hw : s'.walker = Walker.undef) : BandEdit s s'
  | overrun {s s' : State} (h : HuffFrame s s') (r : Fault) : BandEdit s (s'.raiseFault r)
  | delta (s : State) (d : Int) : BandEdit s { s with t := some d }
  | scaleFactor (s : State) (v : Int) : BandEdit s { s with scaleFactor := some v }
  | isPosition (s : State) (v : Int) : BandEdit s { s with isPosition := some v }
  | noiseEnergy (s : State) (v : Int) : BandEdit s { s with noiseEnergy := some v }
  | noisePcmFlag (s : State) (b : Bool) : BandEdit s { s with noisePcmFlag := some b }
  | conceal (s : State) : BandEdit s { s with decState := some .concealed }
  | abort (s : State) (c : AbortCode) : BandEdit s (s.abort c)
  | write {s : State} {p : BandPtr} (hp : s.pc = some p)
      (he : elementExists s.cfg p.g p.sfb = true) (v : Int) :
      BandEdit s { s with
        mem := { s.mem with scaleFactors := cellWrite p.g p.sfb v s.mem.scaleFactors } }

/-- The writes of a walker or decoder operation: those above, and those of `FWD_INIT` (R117). -/
inductive DecoderEdit : State → State → Prop
  | band {s t : State} (h : BandEdit s t) : DecoderEdit s t
  | clear (s : State) : DecoderEdit s { s with mem := { s.mem with scaleFactors := [] } }
  | start (s : State) (gain : Int) : DecoderEdit s { s with
      scaleFactor := some gain, isPosition := some 0, noiseEnergy := some (gain - noiseOffset)
      noisePcmFlag := some true, decState := some .normal, pc := some ⟨0, 0⟩ }

/-- The writes of a `CMD_DEC` and of its parts: those above, and those of the carver, of the loop and of
the sequencer (R97, R98, R101, R116, R128, R129, R140). A segment is held by what `State.inv` asks of it. -/
inductive CommandEdit : State → State → Prop
  | decoder {s t : State} (h : DecoderEdit s t) : CommandEdit s t
  | read {s : State} {c c' : Cursor} (hc : s.main = some c) (hm : CursorMoves c c') :
      CommandEdit s { s with main := some c' }
  | holdSf (s : State) {c : Option Cursor} (hw : cursorOk c = true)
      (hl : (c.getD Cursor.empty).len ≤ 2047) : CommandEdit s { s with sf := c }
  | holdEsc (s : State) {c : Option Cursor} (hw : cursorOk c = true)
      (hl : (c.getD Cursor.empty).len ≤ 255) : CommandEdit s { s with esc := c }
  | pointer (s : State) (p : BandPtr) : CommandEdit s { s with pc := some p }
  | finish (s : State) : CommandEdit s { s with result := some codeOk }
  | phase (s : State) (ph : Phase) : CommandEdit s { s with phase := ph }

/-- Any number of writes of one class. -/
abbrev HeaderEdits := Relation.ReflTransGen HeaderEdit
@[inherit_doc HeaderEdits]
abbrev BandEdits := Relation.ReflTransGen BandEdit
@[inherit_doc HeaderEdits]
abbrev DecoderEdits := Relation.ReflTransGen DecoderEdit
@[inherit_doc HeaderEdits]
abbrev CommandEdits := Relation.ReflTransGen CommandEdit

theorem BandEdits.decoder {s t : State} (h : BandEdits s t) : DecoderEdits s t :=
  Relation.ReflTransGen.mono (fun _ _ => .band) _ _ h

theorem DecoderEdits.command {s t : State} (h : DecoderEdits s t) : CommandEdits s t :=
  Relation.ReflTransGen.mono (fun _ _ => .decoder) _ _ h

/-! ### Walking through an operation -/

section
variable {α β : Type} {E : State → State → Prop} {s t : State}

theorem Micro.chain_andThen {m : Micro α} {f : α → State → Micro β}
    (h : m.within (Relation.ReflTransGen E) s)
    (hf : ∀ a s', (f a s').within (Relation.ReflTransGen E) s') :
    (m.andThen f).within (Relation.ReflTransGen E) s :=
  Micro.within_andThen (frameRel_reflTransGen E) h hf

/-- A write before an operation. -/
theorem Micro.chain_update {m : Micro α} (h : E s t) (hm : m.within (Relation.ReflTransGen E) t) :
    m.within (Relation.ReflTransGen E) s :=
  Micro.within_update (frameRel_reflTransGen E) (.single h) hm

theorem need_chain (hf : ∀ s r, E s (s.raiseFault r)) (r : Option α) (n : RegName) (s : State) :
    (need r n s).within (Relation.ReflTransGen E) s :=
  need_within (frameRel_reflTransGen E) (fun s r => .single (hf s r)) r n s

/-- A chain of writes of one class is one of a wider class. -/
theorem Micro.within_mono {R R' : State → State → Prop} {m : Micro α} (h : m.within R s)
    (hR : ∀ {t}, R s t → R' s t) : m.within R' s :=
  Micro.post_mono h (fun _ _ => hR) (fun _ => hR)

end

/-! ### Walks and band operations -/

theorem need_band {α : Type} (r : Option α) (n : RegName) (s : State) :
    (need r n s).within BandEdits s :=
  need_chain .fault r n s

theorem walk_edits (x : SubId) (s : State) : (walk x s).within BandEdits s := by
  refine Micro.post_mono (walk_frame x s) (fun _ _ h => .single (.lookup h.1 h.2)) ?_
  rintro _ ⟨s₁, h, rfl⟩
  exact .single (.overrun h _)

theorem huffSf_edits (s : State) : (huffSf s).within BandEdits s := by
  refine Micro.post_mono (huffSf_frame s) (fun _ _ h => .single (.lookup h.1 h.2.1)) ?_
  rintro _ ⟨s₁, x, h, rfl⟩
  exact .single (.overrun h _)

theorem takeDelta_edits (s : State) : (takeDelta s).within BandEdits s :=
  Micro.chain_andThen (huffSf_edits s) fun d s' => .single (.delta s' d)

theorem writeElement_edits (v : Int) (s : State) : (writeElement v s).within BandEdits s :=
  writeElement_post v s _ _ (fun _ hp he => .single (.write hp he v)) (fun _ => .single (.fault s _))
    (fun _ _ _ => .single (.refuse s _))

theorem conceal_edits (s : State) : (conceal s).within BandEdits s :=
  Micro.chain_andThen (writeElement_edits 0 s) fun _ s' => .single (.conceal s')

theorem newBaseline_edits (v : Int) (s : State) : (newBaseline v s).within BandEdits s := by
  unfold newBaseline
  split
  · exact .refl
  · exact .single (.refuse s _)

/-- The shape of a band operation that decodes a delta: 99 conceals, any other delta is taken on (R127). -/
theorem deltaBand_edits {f : Int → State → Micro Unit} (hf : ∀ d s, (f d s).within BandEdits s)
    (s : State) :
    ((takeDelta s).andThen fun d s => if isNomatch d then conceal s else f d s).within BandEdits s := by
  refine Micro.chain_andThen (takeDelta_edits s) fun d s₁ => ?_
  split
  · exact conceal_edits s₁
  · exact hf d s₁

/-- The shape of a baseline update: read, add, check the range, go on with the sum (R132). -/
theorem baseline_edits {f : Int → State → Micro Unit} (hf : ∀ v s, (f v s).within BandEdits s)
    (r : Option Int) (n : RegName) (d : Int) (s : State) :
    ((need r n s).andThen fun old s => (newBaseline (old + d) s).andThen f).within BandEdits s :=
  Micro.chain_andThen (need_band r n s) fun _ s₁ => Micro.chain_andThen (newBaseline_edits _ s₁) hf

theorem bandPosition_edits (s : State) : (bandPosition s).within BandEdits s :=
  deltaBand_edits (fun _ _ => baseline_edits (fun v s =>
    Micro.chain_update (.isPosition s v) (writeElement_edits v _)) _ _ _ _) s

theorem bandNoisePcm_edits (s : State) : (bandNoisePcm s).within BandEdits s :=
  Micro.chain_update (.noisePcmFlag s false) <|
    Micro.chain_andThen (need_band _ _ _) fun _ s₁ =>
      Micro.chain_andThen (need_band _ _ s₁) fun _ s₂ =>
        Micro.chain_andThen (newBaseline_edits _ s₂) fun v s₃ =>
          Micro.chain_update (.noiseEnergy s₃ v) (writeElement_edits v _)

theorem bandNoiseDpcm_edits (s : State) : (bandNoiseDpcm s).within BandEdits s :=
  deltaBand_edits (fun _ _ => baseline_edits (fun v s =>
    Micro.chain_update (.noiseEnergy s v) (writeElement_edits v _)) _ _ _ _) s

theorem bandBookscl_edits (s : State) : (bandBookscl s).within BandEdits s :=
  .single (.abort s _)

theorem bandSpectral_edits (s : State) : (bandSpectral s).within BandEdits s := by
  refine deltaBand_edits (fun _ _ => baseline_edits (fun v s =>
    Micro.chain_update (.scaleFactor s v) ?_) _ _ _ _) s
  split
  · exact .single (.abort _ _)
  · exact writeElement_edits v _

/-- R118: whichever operation the dispatch selects. -/
theorem bandStep_edits (s : State) : (bandStep s).within BandEdits s := by
  refine Micro.chain_andThen (need_band _ _ s) fun d s₁ => ?_
  split
  · exact writeElement_edits 0 s₁
  · refine Micro.chain_andThen (need_band _ _ s₁) fun p s₂ =>
      Micro.chain_andThen (need_band _ _ s₂) fun cb s₃ => ?_
    split_ifs
    · exact writeElement_edits 0 s₃
    · exact bandPosition_edits s₃
    · exact bandPosition_edits s₃
    · refine Micro.chain_andThen (need_band _ _ s₃) fun first s₄ => ?_
      split
      · exact bandNoisePcm_edits s₄
      · exact bandNoiseDpcm_edits s₄
    · exact bandBookscl_edits s₃
    · exact bandSpectral_edits s₃

theorem fwdInit_edits (s : State) : (fwdInit s).within DecoderEdits s := by
  have need : ∀ {α : Type} (r : Option α) (n : RegName) (s : State),
      (need r n s).within DecoderEdits s := need_chain fun s r => .band (.fault s r)
  refine Micro.chain_andThen (need _ _ s) fun groups s₁ =>
    Micro.chain_andThen (need _ _ s₁) fun bands s₂ => ?_
  split
  · exact .single (.band (.refuse s₂ _))
  · exact Micro.chain_update (.clear s₂) <|
      Micro.chain_andThen (need _ _ _) fun gain s₃ => .single (.start s₃ gain)

/-! ### The operations of a `CMD_DEC` -/

theorem need_command {α : Type} (r : Option α) (n : RegName) (s : State) :
    (need r n s).within CommandEdits s :=
  need_chain (fun s r => .decoder (.band (.fault s r))) r n s

/-- A carve moves the source as reads do (R46). -/
theorem Cursor.carve_moves {p : OverrunPolicy} {c c' new : Cursor} {L : Nat}
    (h : c.carve p L = some (new, c')) : CursorMoves c c' := by
  refine ⟨?_, fun hw => ⟨(Cursor.carve_frame h hw).2.1, (Cursor.carve_frame h hw).2.2.1⟩⟩
  unfold Cursor.carve at h
  split at h
  · obtain ⟨-, rfl⟩ := Prod.mk.inj (Option.some.inj h)
    rfl
  · cases p with
    | fault => cases h
    | zeroFill =>
      obtain ⟨-, rfl⟩ := Prod.mk.inj (Option.some.inj h)
      rfl

/-- A carved cursor stands at the front of the declared number of bits (R46). -/
theorem Cursor.carve_new {p : OverrunPolicy} {c c' new : Cursor} {L : Nat}
    (h : c.carve p L = some (new, c')) : new.pos = 0 ∧ new.len = L := by
  unfold Cursor.carve at h
  split at h
  · next hc =>
    obtain ⟨rfl, -⟩ := Prod.mk.inj (Option.some.inj h)
    refine ⟨rfl, ?_⟩
    simp only [Cursor.len, List.length_take, List.length_drop] at *
    omega
  · cases p with
    | fault => cases h
    | zeroFill =>
      obtain ⟨rfl, -⟩ := Prod.mk.inj (Option.some.inj h)
      refine ⟨rfl, ?_⟩
      simp only [Cursor.len, List.length_append, List.length_take, List.length_drop,
        List.length_replicate]
      omega

/-- A carve of `main` moves `main` and gives a cursor of the declared length, or only raises a fault. -/
theorem carveMain_ends (L : Nat) (s : State) :
    (carveMain L s).post
      (fun new t => cursorOk (some new) = true ∧ new.len = L ∧
        ∃ m, t = { s with main := m } ∧ CommandEdits s t)
      (fun t => ∃ r, t = s.raiseFault r) := by
  refine carveMain_post L s _ _ ?_ (fun _ => ⟨_, rfl⟩) (fun _ _ _ => ⟨_, rfl⟩)
  intro c new c' hc h
  obtain ⟨hp, hl⟩ := Cursor.carve_new h
  exact ⟨by simp [cursorOk, Cursor.wf, hp], hl, _, rfl, .single (.read hc (Cursor.carve_moves h))⟩

/-- `CARVE.SF` writes `main` and `sf`, or only raises a fault (R37, R97). -/
theorem carveSf_ends (s : State) :
    (carveSf s).post
      (fun _ t => ∃ m c, t = { s with main := m, sf := c } ∧ CommandEdits s t)
      (fun t => ∃ r, t = s.raiseFault r) := by
  simp only [carveSf, Micro.post_andThen, need_post]
  refine ⟨fun len _ => ?_, fun _ => ⟨_, rfl⟩⟩
  split
  · simp only [Micro.post_andThen]
    refine Micro.post_mono (carveMain_ends len.toNat s) ?_ fun _ h => h
    rintro new _ ⟨hw, hl, m, rfl, he⟩
    exact ⟨m, _, rfl, he.tail (.holdSf _ hw (by have := len.isLt; simp; omega))⟩
  · exact ⟨s.main, none, rfl, .single (.holdSf s rfl (by decide))⟩

/-- `CARVE.ESC` writes `main` and `esc`, or only raises a fault (R37, R98). -/
theorem carveEsc_ends (s : State) :
    (carveEsc s).post
      (fun _ t => ∃ m c, t = { s with main := m, esc := c } ∧ CommandEdits s t)
      (fun t => ∃ r, t = s.raiseFault r) := by
  simp only [carveEsc, Micro.post_andThen, need_post]
  refine ⟨fun present _ => ?_, fun _ => ⟨_, rfl⟩⟩
  split
  · simp only [Micro.post_andThen, need_post]
    refine ⟨fun len _ => Micro.post_mono (carveMain_ends len.toNat s) ?_ fun _ h => h,
      fun _ => ⟨_, rfl⟩⟩
    rintro new _ ⟨hw, hl, m, rfl, he⟩
    exact ⟨m, _, rfl, he.tail (.holdEsc _ hw (by have := len.isLt; simp; omega))⟩
  · exact ⟨s.main, none, rfl, .single (.holdEsc s rfl (by decide))⟩

theorem carveSf_edits (s : State) : (carveSf s).within CommandEdits s := by
  refine Micro.post_mono (carveSf_ends s) (fun _ _ ⟨_, _, _, h⟩ => h) ?_
  rintro _ ⟨r, rfl⟩
  exact .single (.decoder (.band (.fault s r)))

theorem carveEsc_edits (s : State) : (carveEsc s).within CommandEdits s := by
  refine Micro.post_mono (carveEsc_ends s) (fun _ _ ⟨_, _, _, h⟩ => h) ?_
  rintro _ ⟨r, rfl⟩
  exact .single (.decoder (.band (.fault s r)))

theorem dispose_edits (s : State) : CommandEdits s s.dispose :=
  .tail (.single (.holdSf s (c := none) rfl (by decide))) (.holdEsc _ (c := none) rfl (by decide))

theorem leaveDec_edits (s : State) : CommandEdits s s.leaveDec :=
  (dispose_edits s).tail (.phase _ .idle)

theorem advancePc_edits (s : State) : (advancePc s).within CommandEdits s :=
  Micro.chain_andThen (need_command _ _ s) fun _ s₁ =>
    Micro.chain_andThen (need_command _ _ s₁) fun _ s₂ => .single (.pointer s₂ _)

theorem loopTest_edits (s : State) : (loopTest s).within CommandEdits s := by
  refine Micro.chain_andThen (need_command _ _ s) fun p s₁ =>
    Micro.chain_andThen (need_command _ _ s₁) fun groups s₂ =>
      Micro.chain_andThen (need_command _ _ s₂) fun bands s₃ => ?_
  split_ifs
  · exact .single (.pointer s₃ _)
  · exact .refl
  · exact .refl

theorem bandLoop_edits (n : Nat) (s : State) : (bandLoop n s).within CommandEdits s := by
  induction n generalizing s with
  | zero => exact .refl
  | succ n ih =>
    refine Micro.chain_andThen (loopTest_edits s) fun more s₁ => ?_
    split
    · exact Micro.chain_andThen
        (Micro.within_mono (bandStep_edits s₁) fun h => (BandEdits.decoder h).command) fun _ s₂ =>
          Micro.chain_andThen (advancePc_edits s₂) fun _ s₃ => ih s₃
    · exact .refl

theorem decBody_edits (s : State) : (decBody s).within CommandEdits s :=
  Micro.chain_update (.phase s (.carve .sf)) <|
    Micro.chain_andThen (carveSf_edits _) fun _ s₁ =>
      Micro.chain_update (.phase s₁ (.carve .esc)) <|
        Micro.chain_andThen (carveEsc_edits _) fun _ s₂ =>
          Micro.chain_update (.phase s₂ (.decode .init)) <|
            Micro.chain_andThen (Micro.within_mono (fwdInit_edits _) DecoderEdits.command) fun _ s₃ =>
              Micro.chain_andThen (bandLoop_edits _ s₃) fun _ s₄ => .single (.finish s₄)

theorem cmdDec_edits (s : State) : (cmdDec s).within CommandEdits s := by
  have refuse : ∀ r, CommandEdits s (s.refuse r) := fun r => .single (.decoder (.band (.refuse s r)))
  unfold cmdDec
  split_ifs
  · have h := decBody_edits s
    cases hb : decBody s with
    | done a t => rw [hb] at h; exact h.trans (leaveDec_edits t)
    | ended t => rw [hb] at h; exact h.trans (leaveDec_edits t)
  · exact refuse _
  · exact refuse _

/-! ### Header operations -/

theorem need_header {α : Type} (r : Option α) (n : RegName) (s : State) :
    (need r n s).within HeaderEdits s :=
  need_chain .fault r n s

theorem readMain_edits (n : Nat) (s : State) : (readMain n s).within HeaderEdits s :=
  readMain_post n s _ _ (fun _ _ _ hc h => .single (.read hc (Cursor.read_moves h)))
    (fun _ => .single (.fault s _)) (fun _ _ _ => .single (.fault s _))

theorem readMainBit_edits (s : State) : (readMainBit s).within HeaderEdits s :=
  Micro.chain_andThen (readMain_edits 1 s) fun _ _ => .refl

theorem hdrSfc_edits (s : State) : (hdrSfc s).within HeaderEdits s :=
  Micro.chain_andThen (readMainBit_edits s) fun _ s' => .single (.registers s' _ _ _ _ _ _ _)

theorem hdrRgg_edits (s : State) : (hdrRgg s).within HeaderEdits s :=
  Micro.chain_andThen (readMain_edits 8 s) fun _ s' => .single (.registers s' _ _ _ _ _ _ _)

theorem hdrLenSf_edits (w : Nat) (s : State) : (hdrLenSf w s).within HeaderEdits s :=
  Micro.chain_andThen (readMain_edits w s) fun _ s' => .single (.registers s' _ _ _ _ _ _ _)

theorem hdrNoiseNrg_edits (s : State) : (hdrNoiseNrg s).within HeaderEdits s := by
  refine Micro.chain_andThen (readMain_edits noiseBits s) fun v s₁ =>
    Micro.chain_update (.registers s₁ _ _ _ (some (BitVec.ofNat 9 v)) _ _ _) <|
      Micro.chain_andThen (need_header _ _ _) fun len s₂ => ?_
  split
  · exact .single (.refuse s₂ _)
  · exact .single (.registers s₂ _ _ _ _ _ _ _)

theorem hdrEscPresent_edits (s : State) : (hdrEscPresent s).within HeaderEdits s :=
  Micro.chain_andThen (readMainBit_edits s) fun _ s' => .single (.registers s' _ _ _ _ _ _ _)

theorem hdrLenEsc_edits (s : State) : (hdrLenEsc s).within HeaderEdits s :=
  Micro.chain_andThen (readMain_edits 8 s) fun _ s' => .single (.registers s' _ _ _ _ _ _ _)

theorem hdrNoiseLastpos_edits (s : State) : (hdrNoiseLastpos s).within HeaderEdits s :=
  Micro.chain_andThen (readMain_edits 9 s) fun _ s' => .single (.registers s' _ _ _ _ _ _ _)

theorem atField_edits {op : State → Micro Unit} (h : ∀ s, (op s).within HeaderEdits s) (f : HdrStep)
    (s : State) : (atField f op s).within HeaderEdits s :=
  Micro.chain_update (.field s f) (h _)

theorem onlyIf_edits {op : State → Micro Unit} (h : ∀ s, (op s).within HeaderEdits s) (b : Bool)
    (s : State) : (onlyIf b op s).within HeaderEdits s := by
  unfold onlyIf
  split
  · exact h s
  · exact .refl

theorem hdrParse_edits (s : State) : (hdrParse s).within HeaderEdits s := by
  refine Micro.chain_andThen (atField_edits hdrSfc_edits _ s) fun _ s₁ =>
    Micro.chain_andThen (atField_edits hdrRgg_edits _ s₁) fun _ s₂ =>
    Micro.chain_andThen (atField_edits (fun s => ?_) _ s₂) fun _ s₃ =>
    Micro.chain_andThen (need_header _ _ s₃) fun noise s₄ =>
    Micro.chain_andThen (onlyIf_edits (atField_edits hdrNoiseNrg_edits _) noise s₄) fun _ s₅ =>
    Micro.chain_andThen (atField_edits hdrEscPresent_edits _ s₅) fun _ s₆ =>
    Micro.chain_andThen (need_header _ _ s₆) fun escapes s₇ =>
    Micro.chain_andThen (onlyIf_edits (atField_edits hdrLenEsc_edits _) escapes s₇) fun _ s₈ =>
    Micro.chain_andThen (need_header _ _ s₈) fun noise s₉ =>
    onlyIf_edits (atField_edits hdrNoiseLastpos_edits _) noise s₉
  refine Micro.chain_andThen (need_header _ _ s) fun short s' => ?_
  split
  · exact hdrLenSf_edits 11 s'
  · exact hdrLenSf_edits 9 s'

theorem cmdHdr_edits (s : State) : (cmdHdr s).within HeaderEdits s := by
  unfold cmdHdr
  split
  · exact Micro.chain_update (.field s .sfc) <|
      Micro.chain_andThen (hdrParse_edits _) fun _ s' => .single (.finish s')
  · exact .single (.refuse s _)

/-! ### Every operation -/

open Sys2Proof.Claims (headerOps decoderOps bandOps)

/-- What the operations of the Header Parser write. -/
theorem exec_headerOp_edits {i : Instr} {s t : State} (hi : headerOps i = true)
    (h : exec i s = .next t) : HeaderEdits s t := by
  cases i with
  | hdrSfc => exact Micro.within_outcome (hdrSfc_edits s) h
  | hdrRgg => exact Micro.within_outcome (hdrRgg_edits s) h
  | hdrLenSf9 => exact Micro.within_outcome (hdrLenSf_edits 9 s) h
  | hdrLenSf11 => exact Micro.within_outcome (hdrLenSf_edits 11 s) h
  | hdrNoiseNrg => exact Micro.within_outcome (hdrNoiseNrg_edits s) h
  | hdrEscPresent => exact Micro.within_outcome (hdrEscPresent_edits s) h
  | hdrLenEsc => exact Micro.within_outcome (hdrLenEsc_edits s) h
  | hdrNoiseLastpos => exact Micro.within_outcome (hdrNoiseLastpos_edits s) h
  | cmdHdr => exact Micro.within_outcome (cmdHdr_edits s) h
  | _ => cases hi

/-- What the band operations write. -/
theorem exec_bandOp_edits {i : Instr} {s t : State} (hi : bandOps i = true) (h : exec i s = .next t) :
    BandEdits s t := by
  cases i with
  | bandConcealed => exact Micro.within_outcome (writeElement_edits 0 s) h
  | bandZero => exact Micro.within_outcome (writeElement_edits 0 s) h
  | bandIntensity => exact Micro.within_outcome (bandPosition_edits s) h
  | bandIntensity2 => exact Micro.within_outcome (bandPosition_edits s) h
  | bandNoisePcm => exact Micro.within_outcome (bandNoisePcm_edits s) h
  | bandNoiseDpcm => exact Micro.within_outcome (bandNoiseDpcm_edits s) h
  | bandBookscl => exact Micro.within_outcome (bandBookscl_edits s) h
  | bandSpectral cb => exact Micro.within_outcome (bandSpectral_edits s) h
  | _ => cases hi

/-- What the walker and decoder operations write. -/
theorem exec_decoderOp_edits {i : Instr} {s t : State} (hi : decoderOps i = true)
    (h : exec i s = .next t) : DecoderEdits s t := by
  cases i with
  | walkSf => exact BandEdits.decoder (Micro.within_outcome (walk_edits .sf s) h)
  | walkEsc => exact BandEdits.decoder (Micro.within_outcome (walk_edits .esc s) h)
  | huffSf => exact BandEdits.decoder (Micro.within_outcome (huffSf_edits s) h)
  | fwdInit => exact Micro.within_outcome (fwdInit_edits s) h
  | bandConcealed | bandZero | bandIntensity | bandIntensity2 | bandNoisePcm | bandNoiseDpcm
  | bandBookscl | bandSpectral cb => exact BandEdits.decoder (exec_bandOp_edits rfl h)
  | _ => cases hi

/-- What the operations outside the Header Parser write. -/
theorem exec_commandOp_edits {i : Instr} {s t : State} (hi : headerOps i = false)
    (h : exec i s = .next t) : CommandEdits s t := by
  cases i with
  | carveSf => exact Micro.within_outcome (carveSf_edits s) h
  | carveEsc => exact Micro.within_outcome (carveEsc_edits s) h
  | release => exact Micro.within_outcome (m := release s) (dispose_edits s) h
  | cmdDec => exact Micro.within_outcome (cmdDec_edits s) h
  | walkSf | walkEsc | huffSf | fwdInit | bandConcealed | bandZero | bandIntensity | bandIntensity2
  | bandNoisePcm | bandNoiseDpcm | bandBookscl | bandSpectral cb =>
    exact (exec_decoderOp_edits rfl h).command
  | _ => cases hi

end Sys2Proof.Machine
end

/-! ## Frames: what each class of operations leaves alone (R36, R37, R60, R94) -/

section
namespace Sys2Proof.Machine

open Sys2Proof.Claims (SameInputs SameHeader headerOps)

/-- What belongs to the decoder (R20 to R26, R30), with the codebook table. -/
def decoderPart (s : State) :=
  (s.sf, s.esc, s.pc, s.scaleFactor, s.isPosition, s.noiseEnergy, s.t, s.walker, s.walkValue, s.huffValue,
    s.noisePcmFlag, s.decState, s.mem)

/-- What belongs to the header parser and the sequencer (R16, R18, R27), and which sub-cursors are held. -/
def headerPart (s : State) :=
  (s.main, s.sfConcealment, s.revGlobalGain, s.lengthOfRvlcSf, s.dpcmNoiseNrg, s.sfEscapesPresent,
    s.lengthOfRvlcEscapes, s.dpcmNoiseLastPosition, s.phase, s.hdrDone, s.sf.isSome, s.esc.isSome)

/-- The registers of the header parser (R18, R19), and whether a header has been parsed (R27). -/
def headerRegisters (s : State) :=
  (s.sfConcealment, s.revGlobalGain, s.lengthOfRvlcSf, s.dpcmNoiseNrg, s.sfEscapesPresent,
    s.lengthOfRvlcEscapes, s.dpcmNoiseLastPosition, s.hdrDone)

/-- What only the host writes (R17, R31, R36). -/
def inputPart (s : State) :=
  (s.cfg, s.isEightShort, s.noiseUsed, s.numWindowGroups, s.maxSfb, s.globalGain, s.mem.sfbCb, s.host,
    s.main.map Cursor.buf)

theorem SubMoves.isSome_eq : ∀ {a b : Option Cursor}, SubMoves a b → b.isSome = a.isSome
  | none, none, _ => rfl
  | none, some _, h | some _, none, h => h.elim
  | some _, some _, _ => rfl

/-- A walk stays in what `headerPart` leaves out. -/
theorem HuffFrame.headerPart_eq {s t : State} (h : HuffFrame s t) : headerPart t = headerPart s := by
  obtain ⟨a, b, w, v, d, rfl, ha, hb⟩ := h
  simp [headerPart, ha.isSome_eq, hb.isSome_eq]

theorem HuffFrame.inputPart_eq {s t : State} (h : HuffFrame s t) : inputPart t = inputPart s := by
  obtain ⟨a, b, w, v, d, rfl, ha, hb⟩ := h
  rfl

theorem HeaderEdit.decoderPart_eq {s t : State} (h : HeaderEdit s t) : decoderPart t = decoderPart s := by
  cases h <;> rfl

theorem HeaderEdit.inputPart_eq {s t : State} (h : HeaderEdit s t) : inputPart t = inputPart s := by
  cases h with
  | read hc hm => simp [inputPart, hc, hm.1]
  | _ => rfl

theorem DecoderEdit.headerPart_eq {s t : State} (h : DecoderEdit s t) : headerPart t = headerPart s := by
  cases h with
  | band h =>
    cases h with
    | lookup h _ => exact h.headerPart_eq
    | overrun h _ => exact h.headerPart_eq
    | _ => rfl
  | clear => rfl
  | start => rfl

theorem DecoderEdit.inputPart_eq {s t : State} (h : DecoderEdit s t) : inputPart t = inputPart s := by
  cases h with
  | band h =>
    cases h with
    | lookup h _ => exact h.inputPart_eq
    | overrun h _ => exact h.inputPart_eq
    | _ => rfl
  | clear => rfl
  | start => rfl

theorem CommandEdit.inputPart_eq {s t : State} (h : CommandEdit s t) : inputPart t = inputPart s := by
  cases h with
  | decoder h => exact h.inputPart_eq
  | read hc hm => simp [inputPart, hc, hm.1]
  | _ => rfl

/-- No part of a `CMD_DEC` writes a header register (R37). -/
theorem CommandEdit.headerRegisters_eq {s t : State} (h : CommandEdit s t) :
    headerRegisters t = headerRegisters s := by
  cases h with
  | decoder h =>
    have h := h.headerPart_eq
    simp only [headerPart, Prod.mk.injEq] at h
    simp [headerRegisters, h]
  | _ => rfl

theorem exec_headerOp_decoderPart {i : Instr} {s t : State} (hi : headerOps i = true)
    (h : exec i s = .next t) : decoderPart t = decoderPart s :=
  (frameRel_agree decoderPart).of_chain (fun _ _ => HeaderEdit.decoderPart_eq) (exec_headerOp_edits hi h)

theorem DecoderEdits.headerPart_eq {s t : State} (h : DecoderEdits s t) : headerPart t = headerPart s :=
  (frameRel_agree headerPart).of_chain (fun _ _ => DecoderEdit.headerPart_eq) h

theorem CommandEdits.headerRegisters_eq {s t : State} (h : CommandEdits s t) :
    headerRegisters t = headerRegisters s :=
  (frameRel_agree headerRegisters).of_chain (fun _ _ => CommandEdit.headerRegisters_eq) h

theorem exec_inputPart {i : Instr} {s t : State} (h : exec i s = .next t) : inputPart t = inputPart s := by
  cases hi : headerOps i with
  | true =>
    exact (frameRel_agree inputPart).of_chain (fun _ _ => HeaderEdit.inputPart_eq)
      (exec_headerOp_edits hi h)
  | false =>
    exact (frameRel_agree inputPart).of_chain (fun _ _ => CommandEdit.inputPart_eq)
      (exec_commandOp_edits hi h)

/-- Settles O17: no write of a Header Parser operation reaches the decoder's part of the state. -/
theorem headerOpsLeaveDecoderAlone : Obligations.HeaderOpsLeaveDecoderAlone := by
  intro i s t hi h
  simpa only [decoderPart, Prod.mk.injEq] using exec_headerOp_decoderPart hi h

/-- Settles O36: no write of a walker or decoder operation reaches the header's part of the state. -/
theorem decoderOpsLeaveHeaderAlone : Obligations.DecoderOpsLeaveHeaderAlone := by
  intro i s t hi h
  simpa only [headerPart, SameHeader, Prod.mk.injEq, and_assoc] using
    (exec_decoderOp_edits hi h).headerPart_eq

/-- Settles O37: no write of any operation reaches what only the host writes. -/
theorem inputsAreNeverWritten : Obligations.InputsAreNeverWritten := by
  intro i s t h
  simpa only [inputPart, SameInputs, Prod.mk.injEq, and_assoc] using exec_inputPart h

end Sys2Proof.Machine
end

/-! ## The part of the invariant that no phase enters into

`Grounded` collects the conjuncts of `State.inv` that do not speak of the phase. Every write keeps them,
so every operation does. -/

section
namespace Sys2Proof.Machine

/-- The tables, cursors, segments and the result are in order (R6, R20, R28, R39, R53). -/
def Stored (s : State) : Prop :=
  s.mem.wf = true ∧ s.elementsOk = true ∧ s.cursorsOk = true ∧ s.segmentsOk = true ∧ s.resultOk = true

/-- `Stored`, and the walker registers are in order (R24). -/
def Grounded (s : State) : Prop := Stored s ∧ s.walkerOk = true

theorem inv_iff (s : State) :
    s.inv = true ↔ Grounded s ∧ s.heldOk = true ∧ s.headerOk = true ∧ s.decodeOk = true := by
  simp only [State.inv, Grounded, Stored, Bool.and_eq_true]
  tauto

/-! ### What the tables list -/

/-- A write lists nothing but its own element beside what was listed. -/
theorem mem_cellWrite {α : Type} {g sfb : Nat} {v : α} {m : Cells α} {e : (Nat × Nat) × α}
    (h : e ∈ cellWrite g sfb v m) : e.1 = (g, sfb) ∨ e ∈ m := by
  induction m with
  | nil => simp_all [cellWrite]
  | cons a rest ih =>
    obtain ⟨k, w⟩ := a
    simp only [cellWrite] at h
    split_ifs at h <;> simp only [List.mem_cons] at h ⊢
    · rcases h with rfl | h
      · exact .inl rfl
      · exact .inr h
    · rcases h with rfl | h
      · exact .inl rfl
      · exact .inr (.inr h)
    · rcases h with h | h
      · exact .inr (.inl h)
      · exact (ih h).imp_right .inr

/-- A write of an element that exists keeps every listed element one that exists (R51). -/
theorem all_exist_cellWrite {α : Type} {c : Config} {g sfb : Nat} {m : Cells α}
    (he : elementExists c g sfb = true) (v : α)
    (h : (m.all fun e => elementExists c e.1.1 e.1.2) = true) :
    ((cellWrite g sfb v m).all fun e => elementExists c e.1.1 e.1.2) = true := by
  rw [List.all_eq_true] at h ⊢
  intro e hmem
  rcases mem_cellWrite hmem with hk | hmem
  · rw [hk]; exact he
  · exact h e hmem

/-! ### Cursors -/

theorem CursorMoves.cursorOk {c c' : Cursor} (h : CursorMoves c c') (hc : cursorOk (some c) = true) :
    cursorOk (some c') = true := by
  simp only [Machine.cursorOk, Option.getD_some, Cursor.wf, decide_eq_true_eq] at hc ⊢
  exact (h.2 hc).2

theorem CursorMoves.len_eq {c c' : Cursor} (h : CursorMoves c c') : c'.len = c.len := by
  rw [Cursor.len, Cursor.len, h.1]

theorem SubMoves.cursorOk : ∀ {a b : Option Cursor}, SubMoves a b → cursorOk a = true → cursorOk b = true
  | none, none, _, ha => ha
  | none, some _, h, _ | some _, none, h, _ => h.elim
  | some _, some _, h, ha => CursorMoves.cursorOk h ha

theorem SubMoves.len_eq : ∀ {a b : Option Cursor}, SubMoves a b →
    (b.getD Cursor.empty).len = (a.getD Cursor.empty).len
  | none, none, _ => rfl
  | none, some _, h | some _, none, h => h.elim
  | some _, some _, h => CursorMoves.len_eq h

theorem Stored.moveMain {s : State} {c c' : Cursor} (h : Stored s) (hc : s.main = some c)
    (hm : CursorMoves c c') : Stored { s with main := some c' } := by
  obtain ⟨hmem, he, hcur, hseg, hres⟩ := h
  refine ⟨hmem, he, ?_, hseg, hres⟩
  simp only [State.cursorsOk, Bool.and_eq_true, hc] at hcur ⊢
  exact ⟨⟨hm.cursorOk hcur.1.1, hcur.1.2⟩, hcur.2⟩

theorem HuffFrame.stored {s t : State} (h : HuffFrame s t) (hs : Stored s) : Stored t := by
  obtain ⟨a, b, w, v, d, rfl, ha, hb⟩ := h
  obtain ⟨hmem, he, hcur, hseg, hres⟩ := hs
  refine ⟨hmem, he, ?_, ?_, hres⟩
  · simp only [State.cursorsOk, Bool.and_eq_true] at hcur ⊢
    exact ⟨⟨hcur.1.1, ha.cursorOk hcur.1.2⟩, hb.cursorOk hcur.2⟩
  · simpa only [State.segmentsOk, ha.len_eq, hb.len_eq] using hseg

/-! ### Every write keeps it -/

theorem Grounded.raiseFault {s : State} (h : Stored s) (r : Fault) : Grounded (s.raiseFault r) :=
  ⟨h, rfl⟩

theorem HeaderEdit.grounded {s t : State} (h : HeaderEdit s t) (hs : Grounded s) : Grounded t := by
  cases h with
  | fault r => exact .raiseFault hs.1 r
  | read hc hm => exact ⟨hs.1.moveMain hc hm, hs.2⟩
  | finish =>
    obtain ⟨⟨hmem, he, hcur, hseg, -⟩, hw⟩ := hs
    exact ⟨⟨hmem, he, hcur, hseg, rfl⟩, hw⟩
  | _ => exact hs

theorem BandEdit.grounded {s t : State} (h : BandEdit s t) (hs : Grounded s) : Grounded t := by
  cases h with
  | fault r => exact .raiseFault hs.1 r
  | lookup h hw => exact ⟨h.stored hs.1, by simp [State.walkerOk, hw]⟩
  | overrun h r => exact .raiseFault (h.stored hs.1) r
  | abort c =>
    obtain ⟨⟨hmem, he, hcur, hseg, -⟩, hw⟩ := hs
    exact ⟨⟨hmem, he, hcur, hseg, by cases c <;> rfl⟩, hw⟩
  | write hp hx v =>
    obtain ⟨⟨hmem, he, hcur, hseg, hres⟩, hw⟩ := hs
    simp only [Memory.wf, State.elementsOk, Bool.and_eq_true] at hmem he
    refine ⟨⟨?_, ?_, hcur, hseg, hres⟩, hw⟩
    · simp [Memory.wf, hmem.1, cellsWf_cellWrite _ _ _ _ hmem.2]
    · simp only [State.elementsOk, Bool.and_eq_true]
      exact ⟨he.1, all_exist_cellWrite hx v he.2⟩
  | _ => exact hs

theorem DecoderEdit.grounded {s t : State} (h : DecoderEdit s t) (hs : Grounded s) : Grounded t := by
  cases h with
  | band h => exact h.grounded hs
  | clear =>
    obtain ⟨⟨hmem, he, hcur, hseg, hres⟩, hw⟩ := hs
    simp only [Memory.wf, State.elementsOk, Bool.and_eq_true] at hmem he
    refine ⟨⟨?_, ?_, hcur, hseg, hres⟩, hw⟩
    · simp [Memory.wf, hmem.1, cellsWf]
    · simpa only [State.elementsOk, Bool.and_eq_true] using ⟨he.1, rfl⟩
  | start => exact hs

theorem CommandEdit.grounded {s t : State} (h : CommandEdit s t) (hs : Grounded s) : Grounded t := by
  cases h with
  | decoder h => exact h.grounded hs
  | read hc hm => exact ⟨hs.1.moveMain hc hm, hs.2⟩
  | holdSf hw hl =>
    obtain ⟨⟨hmem, he, hcur, hseg, hres⟩, hwalk⟩ := hs
    simp only [State.cursorsOk, State.segmentsOk, Bool.and_eq_true, decide_eq_true_eq] at hcur hseg
    refine ⟨⟨hmem, he, ?_, ?_, hres⟩, hwalk⟩
    · simpa only [State.cursorsOk, Bool.and_eq_true] using ⟨⟨hcur.1.1, hw⟩, hcur.2⟩
    · simpa only [State.segmentsOk, decide_eq_true_eq] using ⟨hl, hseg.2⟩
  | holdEsc hw hl =>
    obtain ⟨⟨hmem, he, hcur, hseg, hres⟩, hwalk⟩ := hs
    simp only [State.cursorsOk, State.segmentsOk, Bool.and_eq_true, decide_eq_true_eq] at hcur hseg
    refine ⟨⟨hmem, he, ?_, ?_, hres⟩, hwalk⟩
    · simpa only [State.cursorsOk, Bool.and_eq_true] using ⟨hcur.1, hw⟩
    · simpa only [State.segmentsOk, decide_eq_true_eq] using ⟨hseg.1, hl⟩
  | finish =>
    obtain ⟨⟨hmem, he, hcur, hseg, -⟩, hw⟩ := hs
    exact ⟨⟨hmem, he, hcur, hseg, rfl⟩, hw⟩
  | _ => exact hs

theorem CommandEdits.grounded {s t : State} (h : CommandEdits s t) : Grounded s → Grounded t :=
  (frameRel_keeps Grounded).of_chain (fun _ _ => CommandEdit.grounded) h

/-- Every operation keeps `Grounded`. -/
theorem exec_grounded {i : Instr} {s t : State} (h : exec i s = .next t) (hs : Grounded s) :
    Grounded t := by
  cases hi : Claims.headerOps i with
  | true =>
    exact (frameRel_keeps Grounded).of_chain (fun _ _ => HeaderEdit.grounded)
      (exec_headerOp_edits hi h) hs
  | false => exact CommandEdits.grounded (exec_commandOp_edits hi h) hs

/-! ### The invariant, phase by phase -/

/-- No sub-cursor is held. -/
def Unheld (s : State) : Prop := s.sf = none ∧ s.esc = none

/-- A header has been parsed, and the registers that the carver reads hold values (R96, R98). -/
def Parsed (s : State) : Prop := s.hdrDone = true ∧ s.headerRegs = true

/-- What `State.headerOk` asks at the header field `f`, in whatever phase the unit is. -/
def ReadyFor (f : HdrStep) (s : State) : Prop := ({ s with phase := .hdr f } : State).headerOk = true

theorem inv_idle {s : State} (hp : s.phase = .idle) :
    s.inv = true ↔ Grounded s ∧ Unheld s ∧ (s.hdrDone = true → s.headerRegs = true) := by
  have imp : ∀ a b : Bool, (!a || b) = true ↔ (a = true → b = true) := by decide
  simp [inv_iff, State.heldOk, State.headerOk, State.decodeOk, Unheld, hp, imp, -Bool.not_eq_true]

theorem inv_hdr {s : State} {f : HdrStep} (hp : s.phase = .hdr f) :
    s.inv = true ↔ Grounded s ∧ Unheld s ∧ ReadyFor f s := by
  have ready : ReadyFor f s ↔ s.headerOk = true := by rw [ReadyFor, ← hp]
  simp [inv_iff, State.heldOk, State.decodeOk, Unheld, ready, hp]

theorem inv_carveSf {s : State} (hp : s.phase = .carve .sf) :
    s.inv = true ↔ Grounded s ∧ Unheld s ∧ Parsed s := by
  simp [inv_iff, State.heldOk, State.headerOk, State.decodeOk, Unheld, Parsed, hp]

theorem inv_carveEsc {s : State} (hp : s.phase = .carve .esc) :
    s.inv = true ↔ Grounded s ∧ s.esc = none ∧ Parsed s := by
  simp [inv_iff, State.heldOk, State.headerOk, State.decodeOk, Parsed, hp]

theorem inv_init {s : State} (hp : s.phase = .decode .init) :
    s.inv = true ↔ Grounded s ∧ Parsed s := by
  simp [inv_iff, State.heldOk, State.headerOk, State.decodeOk, Parsed, hp]

theorem inv_release {s : State} (hp : s.phase = .release) :
    s.inv = true ↔ Grounded s ∧ Parsed s := by
  simp [inv_iff, State.heldOk, State.headerOk, State.decodeOk, Parsed, hp]

theorem inv_band {s : State} (hp : s.phase = .decode .band) :
    s.inv = true ↔ Grounded s ∧ Parsed s ∧ (s.marked = false → s.bandOk = true) := by
  have imp : ∀ a b : Bool, (a || b) = true ↔ (a = false → b = true) := by decide
  simp [inv_iff, State.heldOk, State.headerOk, State.decodeOk, Parsed, hp, and_assoc, imp]

theorem decodeOk_of_marked {s : State} (h : s.marked = true) : s.decodeOk = true := by
  unfold State.decodeOk
  split <;> simp [h]

/-- A mark that is set keeps the invariant, wherever the unit stands. -/
theorem inv_raiseFault {s : State} (h : s.inv = true) (r : Fault) : (s.raiseFault r).inv = true := by
  obtain ⟨hg, hheld, hhdr, -⟩ := (inv_iff s).1 h
  exact (inv_iff _).2 ⟨.raiseFault hg.1 r, hheld, hhdr, decodeOk_of_marked rfl⟩

theorem inv_refuse {s : State} (h : s.inv = true) (r : Refusal) : (s.refuse r).inv = true := by
  obtain ⟨hg, hheld, hhdr, -⟩ := (inv_iff s).1 h
  exact (inv_iff _).2 ⟨hg, hheld, hhdr, decodeOk_of_marked (by simp [State.marked, State.refuse])⟩

end Sys2Proof.Machine
end

/-! ## The invariant along a `CMD_HDR` (R85, R96, R139) -/

section
namespace Sys2Proof.Machine

/-! ### One field -/

/-- The operation that the parse runs at a field; `short` is `is_eight_short` (R85). -/
def fieldParse (short : Bool) : HdrStep → State → Micro Unit
  | .sfc => hdrSfc
  | .rgg => hdrRgg
  | .lenSf => hdrLenSf (if short then 11 else 9)
  | .noiseNrg => hdrNoiseNrg
  | .escPresent => hdrEscPresent
  | .lenEsc => hdrLenEsc
  | .noiseLastpos => hdrNoiseLastpos

theorem exec_headerOp_eq (short : Bool) (f : HdrStep) (s : State) :
    exec (headerOp short f) s = (fieldParse short f s).outcome := by
  cases f with
  | lenSf => cases short <;> rfl
  | _ => rfl

theorem headerOps_headerOp (short : Bool) (f : HdrStep) : Claims.headerOps (headerOp short f) = true := by
  cases f with
  | lenSf => cases short <;> rfl
  | _ => rfl

/-- What the fields up to `f` have written once its operation completes. -/
def Written : HdrStep → State → Prop
  | .sfc, _ | .rgg, _ => True
  | .lenSf, s | .noiseNrg, s => s.lengthOfRvlcSf.isSome = true
  | .escPresent, s => s.lengthOfRvlcSf.isSome = true ∧ s.sfEscapesPresent.isSome = true
  | .lenEsc, s | .noiseLastpos, s => s.headerRegs = true

/-- The operation at `f` was ended by a `raise` or `refuse`, and the unit stands at `f` still. -/
def StoppedAt (f : HdrStep) (s t : State) : Prop := t.phase = s.phase ∧ ReadyFor f t ∧ t.marked = true

theorem stoppedAt_raiseFault {f : HdrStep} {s : State} (h : ReadyFor f s) (r : Fault) :
    StoppedAt f s (s.raiseFault r) :=
  ⟨rfl, h, rfl⟩

theorem headerRegs_iff (s : State) :
    s.headerRegs = true ↔ s.lengthOfRvlcSf.isSome = true ∧
      (s.sfEscapesPresent = some false ∨
        s.sfEscapesPresent = some true ∧ s.lengthOfRvlcEscapes.isSome = true) := by
  unfold State.headerRegs
  rcases s.sfEscapesPresent with _ | _ | _ <;> simp

/-- A read of `main` inside a field: it moves `main` only, or stops the parse there. -/
theorem readMain_field {f : HdrStep} {s : State} (h : ReadyFor f s) (n : Nat) (Q : Nat → State → Prop)
    (hQ : ∀ v m, Q v { s with main := m }) : (readMain n s).post Q (StoppedAt f s) :=
  readMain_post n s _ _ (fun _ _ _ _ _ => hQ _ _) (fun _ => stoppedAt_raiseFault h _)
    (fun _ _ _ => stoppedAt_raiseFault h _)

theorem fieldParse_post (short : Bool) (f : HdrStep) (s : State) (h : ReadyFor f s) :
    (fieldParse short f s).post (fun _ t => t.phase = s.phase ∧ ReadyFor f t ∧ Written f t)
      (StoppedAt f s) := by
  cases f with
  | sfc =>
    simp only [fieldParse, hdrSfc, readMainBit, Micro.post_andThen]
    exact readMain_field h 1 _ fun _ _ => ⟨rfl, rfl, trivial⟩
  | rgg =>
    simp only [fieldParse, hdrRgg, Micro.post_andThen]
    exact readMain_field h 8 _ fun _ _ => ⟨rfl, rfl, trivial⟩
  | lenSf =>
    simp only [fieldParse, hdrLenSf, Micro.post_andThen]
    exact readMain_field h _ _ fun _ _ => ⟨rfl, rfl, rfl⟩
  | noiseNrg =>
    simp only [fieldParse, hdrNoiseNrg, Micro.post_andThen, need_post]
    refine readMain_field h _ _ fun v m => ⟨fun len hl => ?_, fun _ => stoppedAt_raiseFault (by exact h) _⟩
    split
    · exact ⟨rfl, h, by simp [State.marked, State.refuse]⟩
    · exact ⟨rfl, rfl, rfl⟩
  | escPresent =>
    simp only [fieldParse, hdrEscPresent, readMainBit, Micro.post_andThen]
    exact readMain_field h 1 _ fun _ _ => ⟨rfl, h, h, rfl⟩
  | lenEsc =>
    simp only [fieldParse, hdrLenEsc, Micro.post_andThen]
    refine readMain_field h 8 _ fun _ _ => ⟨rfl, h, ?_⟩
    simp only [ReadyFor, State.headerOk, Bool.and_eq_true, decide_eq_true_eq] at h
    exact (headerRegs_iff _).2 ⟨h.1, .inr ⟨h.2, rfl⟩⟩
  | noiseLastpos =>
    simp only [fieldParse, hdrNoiseLastpos, Micro.post_andThen]
    exact readMain_field h 9 _ fun _ _ => ⟨rfl, h, h⟩

/-! ### The command as one transition -/

/-- The parse stands at a field whose predecessors have written what it needs. -/
def Parsing (s : State) : Prop := ∃ f, s.phase = .hdr f ∧ ReadyFor f s

/-- One field of the parse, at its place. -/
theorem atField_post (short : Bool) (f : HdrStep) (s : State) (h : ReadyFor f s) :
    (atField f (fieldParse short f) s).post
      (fun _ t => t.phase = .hdr f ∧ ReadyFor f t ∧ Written f t) Parsing :=
  Micro.post_mono (fieldParse_post short f { s with phase := .hdr f } h) (fun _ _ ht => ht)
    fun _ ht => ⟨f, ht.1, ht.2.1⟩

/-- A field operation that a condition may leave out. -/
theorem onlyIf_post {b : Bool} {op : State → Micro Unit} {s : State} {Q : State → Prop}
    {E : State → Prop} (ht : b = true → (op s).post (fun _ => Q) E) (hf : b = false → Q s) :
    (onlyIf b op s).post (fun _ => Q) E := by
  cases b with
  | true => exact ht rfl
  | false => exact hf rfl

/-- A read inside the parse: it stops there when the location holds nothing. -/
theorem need_parsing {α : Type} {r : Option α} {n : RegName} {s : State} {Q : α → State → Prop}
    (hs : Parsing s) (hQ : ∀ a, r = some a → Q a s) : (need r n s).post Q Parsing := by
  obtain ⟨f, hp, hr⟩ := hs
  exact (need_post _ _ _ _ _).2 ⟨hQ, fun _ => ⟨f, hp, hr⟩⟩

/-- What the parse runs at the length field, whose width `is_eight_short` gives (R88). -/
def parseLenSf (s : State) : Micro Unit :=
  (need s.isEightShort .isEightShort s).andThen fun short s =>
    if short then hdrLenSf 11 s else hdrLenSf 9 s

theorem parseLenSf_eq {s : State} {short : Bool} (h : s.isEightShort = some short) :
    parseLenSf s = fieldParse short .lenSf s := by
  rw [parseLenSf, h]
  cases short <;> rfl

theorem parseLenSf_unwritten {s : State} (h : s.isEightShort = none) :
    parseLenSf s = .ended (s.raiseFault (.unwrittenRead .isEightShort)) := by
  rw [parseLenSf, h, need_none, Micro.andThen_ended]

theorem parseLenSf_post (s : State) (hp : s.phase = .hdr .lenSf) :
    (parseLenSf s).post (fun _ t => t.phase = .hdr .lenSf ∧ t.lengthOfRvlcSf.isSome = true) Parsing := by
  cases he : s.isEightShort with
  | none =>
    rw [parseLenSf_unwritten he]
    exact ⟨.lenSf, hp, rfl⟩
  | some short =>
    rw [parseLenSf_eq he]
    exact Micro.post_mono (fieldParse_post short .lenSf s rfl) (fun _ _ h => ⟨h.1.trans hp, h.2.2⟩)
      fun _ h => ⟨.lenSf, h.1.trans hp, h.2.1⟩

/-- A completed parse has written what the carver reads; one that is ended stands at a field. -/
theorem hdrParse_post (s : State) : (hdrParse s).post (fun _ t => t.headerRegs = true) Parsing := by
  simp only [hdrParse, Micro.post_andThen]
  refine Micro.post_mono (atField_post false .sfc s rfl) (fun _ s₁ _ => ?_) fun _ h => h
  refine Micro.post_mono (atField_post false .rgg s₁ rfl) (fun _ s₂ _ => ?_) fun _ h => h
  refine Micro.post_mono (parseLenSf_post { s₂ with phase := .hdr .lenSf } rfl) ?_ fun _ h => h
  rintro _ s₃ ⟨hp₃, hl₃⟩
  refine need_parsing ⟨.lenSf, hp₃, rfl⟩ fun noise _ => ?_
  refine Micro.post_mono (onlyIf_post (Q := fun t => t.lengthOfRvlcSf.isSome = true)
    (fun _ => Micro.post_mono (atField_post false .noiseNrg s₃ hl₃) (fun _ _ h => h.2.2) fun _ h => h)
    fun _ => hl₃) ?_ fun _ h => h
  rintro _ s₄ hl₄
  refine Micro.post_mono (atField_post false .escPresent s₄ hl₄) ?_ fun _ h => h
  rintro _ s₅ ⟨hp₅, hr₅, hl₅, -⟩
  refine need_parsing ⟨_, hp₅, hr₅⟩ fun escapes hes => ?_
  refine Micro.post_mono (onlyIf_post (Q := fun t => Parsing t ∧ t.headerRegs = true) ?_ ?_) ?_
    fun _ h => h
  · rintro rfl
    have ready : ReadyFor .lenEsc s₅ := by simp [ReadyFor, State.headerOk, hl₅, hes]
    exact Micro.post_mono (atField_post false .lenEsc s₅ ready)
      (fun _ _ h => ⟨⟨_, h.1, h.2.1⟩, h.2.2⟩) fun _ h => h
  · rintro rfl
    exact ⟨⟨_, hp₅, hr₅⟩, (headerRegs_iff _).2 ⟨hl₅, .inl hes⟩⟩
  rintro _ s₆ ⟨hp₆, hr₆⟩
  refine need_parsing hp₆ fun noise _ => onlyIf_post (fun _ => ?_) fun _ => hr₆
  exact Micro.post_mono (atField_post false .noiseLastpos s₆ hr₆) (fun _ _ h => h.2.2) fun _ h => h

theorem exec_headerOp_unheld {i : Instr} {s t : State} (hi : Claims.headerOps i = true)
    (h : exec i s = .next t) (hs : Unheld s) : Unheld t := by
  have hd := exec_headerOp_decoderPart hi h
  simp only [decoderPart, Prod.mk.injEq] at hd
  exact ⟨hd.1.trans hs.1, hd.2.1.trans hs.2⟩

/-- `CMD_HDR` from `IDLE` keeps the invariant, on every path. -/
theorem cmdHdr_inv {s t : State} (hp : s.phase = .idle) (hs : s.inv = true)
    (h : exec .cmdHdr s = .next t) : t.inv = true := by
  obtain ⟨hg, hheld, -⟩ := (inv_idle hp).1 hs
  have hg := exec_grounded h hg
  have hheld := exec_headerOp_unheld rfl h hheld
  have hends : (cmdHdr s).post (fun _ t => t.phase = .idle ∧ t.headerRegs = true) Parsing := by
    simp only [cmdHdr, if_pos hp, Micro.post_andThen]
    exact Micro.post_mono (hdrParse_post _) (fun _ _ h => ⟨rfl, h⟩) fun _ h => h
  have hends : (t.phase = .idle ∧ t.headerRegs = true) ∨ Parsing t := by
    obtain rfl : (cmdHdr s).state = t := Host.Outcome.next.inj h
    exact Micro.post_state (P := fun t => (t.phase = .idle ∧ t.headerRegs = true) ∨ Parsing t)
      (Micro.post_mono hends (fun _ _ => .inl) fun _ => .inr)
  rcases hends with ⟨hp, hr⟩ | ⟨f, hp, hr⟩
  · exact (inv_idle hp).2 ⟨hg, hheld, fun _ => hr⟩
  · exact (inv_hdr hp).2 ⟨hg, hheld, hr⟩

/-! ### The command as a sequence of micro-operations -/

theorem inv_atField {f : HdrStep} {s : State} (hg : Grounded s) (hheld : Unheld s) (hr : ReadyFor f s) :
    ({ s with phase := .hdr f } : State).inv = true :=
  (inv_hdr rfl).2 ⟨hg, hheld, hr⟩

theorem inv_endHdr {s : State} (hg : Grounded s) (hheld : Unheld s) (hr : s.headerRegs = true) :
    (endHdr s).inv = true :=
  (inv_idle rfl).2 ⟨(HeaderEdit.finish s).grounded hg, hheld, fun _ => hr⟩

/-- A read between two fields: the unit stays where it stands when the location holds nothing. -/
theorem need_inv {α : Type} {r : Option α} {n : RegName} {s : State} {Q : α → State → Prop}
    (hs : s.inv = true) (hQ : ∀ a, r = some a → Q a s) :
    (need r n s).post Q fun t => t.inv = true :=
  (need_post _ _ _ _ _).2 ⟨hQ, fun _ => inv_raiseFault hs _⟩

theorem afterEscapes_inv {s : State} (hs : s.inv = true) (hg : Grounded s) (hheld : Unheld s)
    (hr : s.headerRegs = true) :
    (afterEscapes s).post (fun _ t => t.inv = true) fun t => t.inv = true := by
  simp only [afterEscapes, Micro.post_andThen]
  refine need_inv hs fun noise _ => ?_
  split
  · exact inv_atField hg hheld hr
  · exact inv_endHdr hg hheld hr

/-- The next field of the fixed order finds what it needs (R85). -/
theorem afterField_inv {f : HdrStep} {s : State} (hs : s.inv = true) (hg : Grounded s)
    (hheld : Unheld s) (hw : Written f s) :
    (afterField f s).post (fun _ t => t.inv = true) fun t => t.inv = true := by
  cases f with
  | sfc => exact inv_atField hg hheld rfl
  | rgg => exact inv_atField hg hheld rfl
  | lenSf =>
    simp only [afterField, Micro.post_andThen]
    refine need_inv hs fun noise _ => ?_
    split
    · exact inv_atField hg hheld hw
    · exact inv_atField hg hheld hw
  | noiseNrg => exact inv_atField hg hheld hw
  | escPresent =>
    simp only [afterField, Micro.post_andThen]
    refine need_inv hs fun escapes hes => ?_
    cases escapes with
    | true => exact inv_atField hg hheld (by simp [ReadyFor, State.headerOk, hw.1, hes])
    | false => exact afterEscapes_inv hs hg hheld ((headerRegs_iff s).2 ⟨hw.1, .inl hes⟩)
  | lenEsc => exact afterEscapes_inv hs hg hheld hw
  | noiseLastpos => exact inv_endHdr hg hheld hw

end Sys2Proof.Machine
end

/-! ## The invariant along a `CMD_DEC` (R101, R116 to R129, R140) -/

section
namespace Sys2Proof.Machine

theorem parsed_of_headerRegisters_eq {s t : State} (h : headerRegisters t = headerRegisters s)
    (hs : Parsed s) : Parsed t := by
  obtain ⟨hd, hr⟩ := hs
  simp only [headerRegisters, Prod.mk.injEq] at h
  obtain ⟨-, -, hlen, -, hpres, hesc, -, hdone⟩ := h
  refine ⟨hdone.trans hd, ?_⟩
  rw [headerRegs_iff] at hr ⊢
  rwa [hlen, hpres, hesc]

/-! ### The command as one transition -/

/-- `RELEASE` and `IDLE` after any part of a `CMD_DEC`. -/
theorem inv_leaveDec {s : State} (hg : Grounded s) (hs : Parsed s) : s.leaveDec.inv = true :=
  (inv_idle rfl).2 ⟨(leaveDec_edits s).grounded hg, ⟨rfl, rfl⟩, fun _ => hs.2⟩

/-- `CMD_DEC` from `IDLE` keeps the invariant, on every path. -/
theorem cmdDec_inv {s : State} (hp : s.phase = .idle) (hs : s.inv = true) :
    (cmdDec s).state.inv = true := by
  unfold cmdDec
  rw [if_pos hp]
  split
  · next hd =>
    obtain ⟨hg, -, hr⟩ := (inv_idle hp).1 hs
    have leave : ∀ t, CommandEdits s t → t.leaveDec.inv = true := fun t h =>
      inv_leaveDec (h.grounded hg) (parsed_of_headerRegisters_eq h.headerRegisters_eq ⟨hd, hr hd⟩)
    have hb := decBody_edits s
    cases hbody : decBody s with
    | done a t => rw [hbody] at hb; exact leave t hb
    | ended t => rw [hbody] at hb; exact leave t hb
  · exact inv_refuse hs _

/-! ### A run in progress -/

/-- The decoder registers of a run hold values, its ranges fit the table memory, and `p` is the band
pointer (R21, R51, R117). -/
structure Running (s : State) (p : BandPtr) (groups : BitVec 4) (bands : BitVec 6) : Prop where
  pointer : s.pc = some p
  groupsIn : s.numWindowGroups = some groups
  bandsIn : s.maxSfb = some bands
  groupsOk : groups.toNat ≤ s.cfg.maxGroups
  bandsOk : bands.toNat ≤ s.cfg.maxSfb
  scale : s.scaleFactor.isSome = true
  position : s.isPosition.isSome = true
  noise : s.noiseEnergy.isSome = true
  flag : s.noisePcmFlag.isSome = true
  state : s.decState.isSome = true

/-- Every listed element of `scale_factors` stands before `p`. -/
def ListedBefore (s : State) (p : BandPtr) : Prop :=
  ∀ e ∈ s.mem.scaleFactors, keyLt e.1 (p.g, p.sfb) = true

/-- Every listed element of `scale_factors` stands before `p`, or is the one at `p`. -/
def ListedUpTo (s : State) (p : BandPtr) : Prop :=
  ∀ e ∈ s.mem.scaleFactors, e.1 = (p.g, p.sfb) ∨ keyLt e.1 (p.g, p.sfb) = true

/-- A decoder state that holds a value is over, or one of the two in which bands are decoded (R130). -/
theorem aborted_eq_false_iff (s : State) (h : s.decState.isSome = true) :
    s.aborted = false ↔ s.decState = some .normal ∨ s.decState = some .concealed := by
  unfold State.aborted
  rcases hd : s.decState with _ | _ | _ | _ <;> simp_all

theorem bandOk_iff (s : State) :
    s.bandOk = true ↔ ∃ p groups bands, Running s p groups bands ∧ p.g < groups.toNat ∧
      p.sfb < bands.toNat ∧ s.aborted = false ∧ ListedBefore s p := by
  constructor
  · intro h
    unfold State.bandOk at h
    split at h
    · next p groups bands hp hg hb =>
      simp only [Bool.and_eq_true, decide_eq_true_eq, List.all_eq_true] at h
      obtain ⟨⟨⟨⟨⟨⟨⟨hpg, hps, hgo, hbo⟩, hsc⟩, hpo⟩, hno⟩, hfl⟩, hst⟩, hl⟩ := h
      have hsome : s.decState.isSome = true := by rcases hst with h | h <;> simp [h]
      exact ⟨p, groups, bands, ⟨hp, hg, hb, hgo, hbo, hsc, hpo, hno, hfl, hsome⟩, hpg, hps,
        (aborted_eq_false_iff s hsome).2 hst, hl⟩
    · cases h
  · rintro ⟨p, groups, bands, hr, hpg, hps, ha, hl⟩
    have hst := (aborted_eq_false_iff s hr.state).1 ha
    unfold State.bandOk
    simp only [hr.pointer, hr.groupsIn, hr.bandsIn, hr.scale, hr.position, hr.noise, hr.flag,
      Bool.and_eq_true, decide_eq_true_eq, List.all_eq_true, and_true]
    exact ⟨⟨⟨hpg, hps, hr.groupsOk, hr.bandsOk⟩, hst⟩, hl⟩

/-! ### A band -/

/-- The writes of a band operation keep the run at its band, and list no element but that of the band. -/
theorem BandEdit.running {s t : State} {p : BandPtr} {groups : BitVec 4} {bands : BitVec 6}
    (h : BandEdit s t) (hs : Running s p groups bands ∧ ListedUpTo s p) :
    Running t p groups bands ∧ ListedUpTo t p := by
  obtain ⟨⟨hp, hg, hb, hgo, hbo, hsc, hpo, hno, hfl, hst⟩, hl⟩ := hs
  cases h with
  | lookup h _ =>
    obtain ⟨a, b, w, v, d, rfl, -, -⟩ := h
    exact ⟨⟨hp, hg, hb, hgo, hbo, hsc, hpo, hno, hfl, hst⟩, hl⟩
  | overrun h _ =>
    obtain ⟨a, b, w, v, d, rfl, -, -⟩ := h
    exact ⟨⟨hp, hg, hb, hgo, hbo, hsc, hpo, hno, hfl, hst⟩, hl⟩
  | scaleFactor v => exact ⟨⟨hp, hg, hb, hgo, hbo, rfl, hpo, hno, hfl, hst⟩, hl⟩
  | isPosition v => exact ⟨⟨hp, hg, hb, hgo, hbo, hsc, rfl, hno, hfl, hst⟩, hl⟩
  | noiseEnergy v => exact ⟨⟨hp, hg, hb, hgo, hbo, hsc, hpo, rfl, hfl, hst⟩, hl⟩
  | noisePcmFlag b => exact ⟨⟨hp, hg, hb, hgo, hbo, hsc, hpo, hno, rfl, hst⟩, hl⟩
  | conceal => exact ⟨⟨hp, hg, hb, hgo, hbo, hsc, hpo, hno, hfl, rfl⟩, hl⟩
  | abort c => exact ⟨⟨hp, hg, hb, hgo, hbo, hsc, hpo, hno, hfl, rfl⟩, hl⟩
  | write hq _ v =>
    obtain rfl : p = _ := Option.some.inj (hp.symm.trans hq)
    exact ⟨⟨hp, hg, hb, hgo, hbo, hsc, hpo, hno, hfl, hst⟩,
      fun e he => (mem_cellWrite he).elim .inl (hl e)⟩
  | _ => exact ⟨⟨hp, hg, hb, hgo, hbo, hsc, hpo, hno, hfl, hst⟩, hl⟩

/-- What stands before the next band stands before the band or at it (R128). -/
theorem keyLt_nextPtr {bands : Nat} {p : BandPtr} {k : Nat × Nat}
    (h : k = (p.g, p.sfb) ∨ keyLt k (p.g, p.sfb) = true) :
    keyLt k ((nextPtr bands p).g, (nextPtr bands p).sfb) = true := by
  have hnext : keyLt (p.g, p.sfb) ((nextPtr bands p).g, (nextPtr bands p).sfb) = true := by
    unfold nextPtr
    split <;> simp [keyLt]
  rcases h with rfl | h
  · exact hnext
  · exact keyLt_trans h hnext

/-! ### Between two bands -/

/-- The unit stands before the loop test of R116: at a band of the run, or past its last one. -/
def AtLoopTest (s : State) : Prop :=
  ∃ p groups bands, Running s p groups bands ∧ (p.sfb < bands.toNat ∨ p.sfb = 0) ∧ s.aborted = false ∧
    ListedBefore s p

theorem loopTest_eq {s : State} {p : BandPtr} {groups : BitVec 4} {bands : BitVec 6}
    (hp : s.pc = some p) (hg : s.numWindowGroups = some groups) (hb : s.maxSfb = some bands) :
    loopTest s = if p.g < groups.toNat then
        if bands.toNat = 0 then .done false { s with pc := some ⟨groups.toNat, p.sfb⟩ } else .done true s
      else .done false s := by
  simp only [loopTest, hp, hg, hb, need_some, Micro.andThen_done]

theorem advancePc_done {s : State} {p : BandPtr} {bands : BitVec 6} (hp : s.pc = some p)
    (hb : s.maxSfb = some bands) :
    advancePc s = .done () { s with pc := some (nextPtr bands.toNat p) } := by
  simp only [advancePc, hp, hb, need_some, Micro.andThen_done]

/-- The loop test finds a band that is in order, or ends the run (R116, R129). -/
theorem toBandOrEnd_inv {s : State} (hl : AtLoopTest s) (hg : Grounded s) (hs : Parsed s) :
    (toBandOrEnd s).state.inv = true := by
  obtain ⟨p, groups, bands, hr, hsfb, ha, hl⟩ := hl
  have stop : ∀ q : Option BandPtr,
      ({ s with pc := q, result := some codeOk, phase := .release } : State).inv = true := fun q =>
    (inv_release rfl).2 ⟨(CommandEdit.finish { s with pc := q }).grounded hg, hs⟩
  rw [toBandOrEnd, loopTest_eq hr.pointer hr.groupsIn hr.bandsIn]
  split_ifs with hpg hb
  · exact stop (some _)
  · refine (inv_band rfl).2 ⟨hg, hs, fun _ => (bandOk_iff _).2 ⟨p, groups, bands, ?_, hpg, ?_, ha, hl⟩⟩
    · obtain ⟨hp, hg, hb, hgo, hbo, hsc, hpo, hno, hfl, hst⟩ := hr
      exact ⟨hp, hg, hb, hgo, hbo, hsc, hpo, hno, hfl, hst⟩
    · omega
  · exact stop s.pc

/-- After a band the unit goes to `RELEASE` or on to the loop test (R128, R152). -/
theorem afterBand_inv {s : State} {p : BandPtr} {groups : BitVec 4} {bands : BitVec 6}
    (hr : Running s p groups bands) (hl : ListedUpTo s p) (hg : Grounded s) (hs : Parsed s) :
    (afterBand s).state.inv = true := by
  unfold afterBand
  split
  · exact (inv_release rfl).2 ⟨hg, hs⟩
  · next ha =>
    rw [advancePc_done hr.pointer hr.bandsIn]
    refine toBandOrEnd_inv ⟨nextPtr bands.toNat p, groups, bands, ?_, ?_, Bool.eq_false_iff.2 ha, ?_⟩ hg hs
    · obtain ⟨hp, hg, hb, hgo, hbo, hsc, hpo, hno, hfl, hst⟩ := hr
      exact ⟨rfl, hg, hb, hgo, hbo, hsc, hpo, hno, hfl, hst⟩
    · unfold nextPtr
      split
      · next h => exact .inl h
      · exact .inr rfl
    · exact fun e he => keyLt_nextPtr (hl e he)

/-! ### `FWD_INIT` -/

/-- `FWD_INIT` starts a run, or ends with a mark (R117). -/
theorem fwdInit_starts (s : State) :
    (fwdInit s).post (fun _ t => AtLoopTest t) fun t => t.marked = true := by
  simp only [fwdInit, Micro.post_andThen, need_post]
  refine ⟨fun groups hgr => ⟨fun bands hba => ?_, fun _ => rfl⟩, fun _ => rfl⟩
  split
  · simp [State.marked, State.refuse]
  · next hfit =>
    simp only [Micro.post_andThen, need_post]
    refine ⟨fun gain _ => ?_, fun _ => rfl⟩
    push Not at hfit
    exact ⟨⟨0, 0⟩, groups, bands, ⟨rfl, hgr, hba, hfit.1, hfit.2, rfl, rfl, rfl, rfl, rfl⟩, .inr rfl, rfl,
      nofun⟩

end Sys2Proof.Machine
end

/-! ## The invariant along a step -/

section
namespace Sys2Proof.Machine

open Sys2Proof.Claims (bandOps)

/-! ### Which operation a phase selects -/

/-- The operations that a phase can select (R27, R85, R96, R118). -/
inductive Selects (s : State) : Phase → Instr → Prop
  | idle : Selects s .idle .release
  | hdr (f : HdrStep) (short : Bool) : Selects s (.hdr f) (headerOp short f)
  | carveSf : Selects s (.carve .sf) .carveSf
  | carveEsc : Selects s (.carve .esc) .carveEsc
  | init : Selects s (.decode .init) .fwdInit
  | band {i : Instr} (h : bandOps i = true ∨ s.aborted = true) : Selects s (.decode .band) i
  | release : Selects s .release .release

/-- A codebook value selects a band operation (R69). -/
theorem bandOps_codebookOp (first : Bool) (cb : BitVec 4) : bandOps (codebookOp first cb) = true := by
  unfold codebookOp
  split_ifs <;> rfl

/-- The selection of a band operation reads registers and changes nothing but the mark. -/
theorem fetchBand_post (s : State) :
    (fetchBand s).post (fun i t => t = s ∧ (bandOps i = true ∨ s.aborted = true))
      fun t => ∃ r, t = s.raiseFault r := by
  have decoded : ∀ first (cb : BitVec 4),
      (selected (decode (.band .normal first) (bitsOf 4 cb.toNat)) s).post
        (fun i t => t = s ∧ (bandOps i = true ∨ s.aborted = true)) fun t => ∃ r, t = s.raiseFault r := by
    intro first cb
    simp only [decode, bitsOf_length, Slot.width, if_true, selected]
    exact ⟨rfl, .inl (bandOps_codebookOp _ _)⟩
  simp only [fetchBand, Micro.post_andThen, need_post]
  refine ⟨fun d hd => ?_, fun _ => ⟨_, rfl⟩⟩
  cases d with
  | concealed => exact ⟨rfl, .inl rfl⟩
  | aborted c => exact ⟨rfl, .inr (by simp [State.aborted, hd])⟩
  | normal =>
    simp only [readCodebook, Micro.post_andThen, need_post]
    refine ⟨fun p _ => ⟨fun cb _ => ?_, fun _ => ⟨_, rfl⟩⟩, fun _ => ⟨_, rfl⟩⟩
    split
    · simp only [Micro.post_andThen, need_post]
      exact ⟨fun first _ => decoded first cb, fun _ => ⟨_, rfl⟩⟩
    · exact decoded true cb

theorem fetchOp_post (s : State) :
    (fetchOp s).post (fun i t => t = s ∧ Selects s s.phase i) fun t => ∃ r, t = s.raiseFault r := by
  unfold fetchOp
  cases hp : s.phase with
  | idle => exact ⟨rfl, .idle⟩
  | hdr f =>
    cases f with
    | lenSf =>
      simp only [Micro.post_andThen, need_post]
      exact ⟨fun short _ => ⟨rfl, .hdr .lenSf short⟩, fun _ => ⟨_, rfl⟩⟩
    | _ => exact ⟨rfl, .hdr _ false⟩
  | carve c =>
    cases c with
    | sf => exact ⟨rfl, .carveSf⟩
    | esc => exact ⟨rfl, .carveEsc⟩
  | decode d =>
    cases d with
    | init => exact ⟨rfl, .init⟩
    | band => exact Micro.post_mono (fetchBand_post s) (fun _ _ h => ⟨h.1, .band h.2⟩) fun _ h => h
  | release => exact ⟨rfl, .release⟩

/-! ### One micro-operation -/

/-- What follows an operation keeps the invariant when the marked end of the operation meets it, and what
comes after the unmarked end does. -/
theorem continueWith_inv {s' t : State} (h : continueWith (.next t) = .next s')
    (hm : t.marked = true → t.inv = true) (ha : t.marked = false → (afterOp t).state.inv = true) :
    s'.inv = true := by
  simp only [continueWith] at h
  split at h
  · next hmark =>
    obtain rfl := Host.Outcome.next.inj h
    exact hm hmark
  · next hmark =>
    obtain rfl := Host.Outcome.next.inj h
    exact ha (Bool.eq_false_iff.2 hmark)

/-- Only a next state goes on. -/
theorem exists_next_of_continueWith {o : Outcome} {s' : State} (h : continueWith o = .next s') :
    ∃ t, o = .next t := by
  cases o with
  | next t => exact ⟨t, rfl⟩
  | fault r => cases h
  | refused r => cases h

/-- A completed field operation has written its register; one that is ended stands at its field. -/
theorem exec_headerOp_ends {f : HdrStep} {short : Bool} {s t : State} (h : ReadyFor f s)
    (he : exec (headerOp short f) s = .next t) :
    t.phase = s.phase ∧ ReadyFor f t ∧ (t.marked = false → Written f t) := by
  rw [exec_headerOp_eq] at he
  obtain rfl : (fieldParse short f s).state = t := Host.Outcome.next.inj he
  refine Micro.post_state (P := fun t => t.phase = s.phase ∧ ReadyFor f t ∧ (t.marked = false → Written f t))
    (Micro.post_mono (fieldParse_post short f s h) ?_ ?_)
  · rintro _ t ⟨hp, hr, hw⟩
    exact ⟨hp, hr, fun _ => hw⟩
  · rintro t ⟨hp, hr, hm⟩
    exact ⟨hp, hr, fun hn => absurd hm (Bool.eq_false_iff.1 hn)⟩

/-- A header field, and the choice of the next. -/
theorem inv_after_headerOp {s s' : State} {f : HdrStep} {short : Bool} (hp : s.phase = .hdr f)
    (hs : s.inv = true) (h : continueWith (exec (headerOp short f) s) = .next s') : s'.inv = true := by
  obtain ⟨t, he⟩ := exists_next_of_continueWith h
  rw [he] at h
  obtain ⟨hg, hheld, hready⟩ := (inv_hdr hp).1 hs
  have hg := exec_grounded he hg
  have hheld := exec_headerOp_unheld (headerOps_headerOp short f) he hheld
  obtain ⟨hpt, hready, hw⟩ := exec_headerOp_ends hready he
  have hpt := hpt.trans hp
  have ht : t.inv = true := (inv_hdr hpt).2 ⟨hg, hheld, hready⟩
  refine continueWith_inv h (fun _ => ht) fun hm => ?_
  have hafter : afterOp t = afterField f t := by simp only [afterOp, hpt]
  rw [hafter]
  exact Micro.post_state (P := fun t => t.inv = true) (afterField_inv ht hg hheld (hw hm))

/-- A carve completes unmarked, or only raises a fault. -/
theorem inv_after_carve {m : Micro Unit} {s s' : State} (hs : s.inv = true)
    (hm : m.post (fun _ t => t.marked = false ∧ (afterOp t).state.inv = true)
      fun t => ∃ r, t = s.raiseFault r)
    (h : continueWith (.next m.state) = .next s') : s'.inv = true := by
  cases m with
  | done a t => exact continueWith_inv h (fun hn => absurd hn (Bool.eq_false_iff.1 hm.1)) fun _ => hm.2
  | ended t =>
    obtain ⟨r, rfl⟩ := hm
    exact continueWith_inv h (fun _ => inv_raiseFault hs r) nofun

/-- `CARVE.SF`, and then `CARVE.ESC` is next. -/
theorem inv_after_carveSf {s s' : State} (hp : s.phase = .carve .sf) (hu : s.marked = false)
    (hs : s.inv = true) (h : continueWith (exec .carveSf s) = .next s') : s'.inv = true := by
  obtain ⟨hg, hheld, hparsed⟩ := (inv_carveSf hp).1 hs
  refine inv_after_carve hs (Micro.post_mono (carveSf_ends s) ?_ fun _ h => h) h
  rintro _ _ ⟨m, c, rfl, he⟩
  refine ⟨hu, ?_⟩
  simp only [afterOp, hp]
  exact (inv_carveEsc rfl).2 ⟨he.grounded hg, hheld.2, hparsed⟩

/-- `CARVE.ESC`, and then `FWD_INIT` is next. -/
theorem inv_after_carveEsc {s s' : State} (hp : s.phase = .carve .esc) (hu : s.marked = false)
    (hs : s.inv = true) (h : continueWith (exec .carveEsc s) = .next s') : s'.inv = true := by
  obtain ⟨hg, -, hparsed⟩ := (inv_carveEsc hp).1 hs
  refine inv_after_carve hs (Micro.post_mono (carveEsc_ends s) ?_ fun _ h => h) h
  rintro _ _ ⟨m, c, rfl, he⟩
  refine ⟨hu, ?_⟩
  simp only [afterOp, hp]
  exact (inv_init rfl).2 ⟨he.grounded hg, hparsed⟩

/-- A decoder operation leaves the phase and what the header parser wrote (R37). -/
theorem DecoderEdits.phase_parsed {s t : State} (h : DecoderEdits s t) (hs : Parsed s) :
    t.phase = s.phase ∧ Parsed t := by
  refine ⟨?_, parsed_of_headerRegisters_eq h.command.headerRegisters_eq hs⟩
  have hp := h.headerPart_eq
  simp only [headerPart, Prod.mk.injEq] at hp
  obtain ⟨-, -, -, -, -, -, -, -, hphase, -⟩ := hp
  exact hphase

/-- `FWD_INIT`, and then the first band or the end of the run. -/
theorem inv_after_fwdInit {s s' : State} (hp : s.phase = .decode .init) (hs : s.inv = true)
    (h : continueWith (exec .fwdInit s) = .next s') : s'.inv = true := by
  obtain ⟨t, he⟩ := exists_next_of_continueWith h
  rw [he] at h
  obtain ⟨hg, hparsed⟩ := (inv_init hp).1 hs
  have hg := exec_grounded he hg
  obtain ⟨hpt, hparsed⟩ := (exec_decoderOp_edits rfl he).phase_parsed hparsed
  have hpt := hpt.trans hp
  refine continueWith_inv h (fun _ => (inv_init hpt).2 ⟨hg, hparsed⟩) fun hm => ?_
  simp only [afterOp, hpt]
  obtain rfl : (fwdInit s).state = t := Host.Outcome.next.inj he
  have hstart : (fwdInit s).state.marked = false → AtLoopTest (fwdInit s).state :=
    Micro.post_state (P := fun t => t.marked = false → AtLoopTest t)
      (Micro.post_mono (fwdInit_starts s) (fun _ _ h _ => h) fun _ hm hn =>
        absurd hm (Bool.eq_false_iff.1 hn))
  exact toBandOrEnd_inv (hstart hm) hg hparsed

/-- A band operation, and then the next band, the end of the run, or `RELEASE` after an abort. -/
theorem inv_after_bandOp {s s' : State} {i : Instr} (hp : s.phase = .decode .band)
    (hu : s.marked = false) (hs : s.inv = true) (hi : bandOps i = true)
    (h : continueWith (exec i s) = .next s') : s'.inv = true := by
  obtain ⟨t, he⟩ := exists_next_of_continueWith h
  rw [he] at h
  obtain ⟨hg, hparsed, hband⟩ := (inv_band hp).1 hs
  have hg := exec_grounded he hg
  have hedits := exec_bandOp_edits hi he
  obtain ⟨hpt, hparsed⟩ := (BandEdits.decoder hedits).phase_parsed hparsed
  have hpt := hpt.trans hp
  obtain ⟨p, groups, bands, hr, -, -, -, hl⟩ := (bandOk_iff s).1 (hband hu)
  obtain ⟨hr, hl⟩ := (frameRel_keeps fun s => Running s p groups bands ∧ ListedUpTo s p).of_chain
    (fun _ _ => BandEdit.running) hedits ⟨hr, fun e he => .inr (hl e he)⟩
  refine continueWith_inv h (fun hm => ?_) fun _ => ?_
  · exact (inv_band hpt).2 ⟨hg, hparsed, fun hn => absurd hm (Bool.eq_false_iff.1 hn)⟩
  · simp only [afterOp, hpt]
    exact afterBand_inv hr hl hg hparsed

/-- `RELEASE`, and then `IDLE`. -/
theorem inv_after_release {s s' : State} (hp : s.phase = .release) (hs : s.inv = true)
    (h : continueWith (exec .release s) = .next s') : s'.inv = true := by
  obtain ⟨t, he⟩ := exists_next_of_continueWith h
  rw [he] at h
  obtain ⟨hg, hparsed⟩ := (inv_release hp).1 hs
  have hg := exec_grounded he hg
  obtain rfl : s.dispose = t := Host.Outcome.next.inj he
  refine continueWith_inv h (fun _ => (inv_release (s := s.dispose) hp).2 ⟨hg, hparsed⟩) fun _ => ?_
  simp only [afterOp, State.dispose_phase, hp]
  exact (inv_idle rfl).2 ⟨hg, ⟨rfl, rfl⟩, fun _ => hparsed.2⟩

/-- A micro-operation of a command in progress keeps the invariant. -/
theorem microStep_inv {s s' : State} (hidle : s.phase ≠ .idle) (hu : s.marked = false)
    (hs : s.inv = true) (h : microStep s = .next s') : s'.inv = true := by
  have hfetch := fetchOp_post s
  unfold microStep at h
  cases hf : fetchOp s with
  | ended t =>
    rw [hf] at hfetch h
    obtain ⟨r, rfl⟩ := hfetch
    obtain rfl := Host.Outcome.next.inj h
    exact inv_raiseFault hs r
  | done i t =>
    rw [hf] at hfetch h
    obtain ⟨rfl, hi⟩ := hfetch
    change continueWith (exec i t) = .next s' at h
    generalize hp : t.phase = ph at hi
    cases hi with
    | idle => exact absurd hp hidle
    | hdr f short => exact inv_after_headerOp hp hs h
    | carveSf => exact inv_after_carveSf hp hu hs h
    | carveEsc => exact inv_after_carveEsc hp hu hs h
    | init => exact inv_after_fwdInit hp hs h
    | release => exact inv_after_release hp hs h
    | band hi =>
      refine inv_after_bandOp hp hu hs (hi.resolve_right ?_) h
      obtain ⟨-, -, hband⟩ := (inv_band hp).1 hs
      obtain ⟨_, _, _, -, -, -, ha, -⟩ := (bandOk_iff t).1 (hband hu)
      exact Bool.eq_false_iff.1 ha

/-! ### The host -/

theorem hostBind_inv {s : State} (buf : Bits) (pos : Nat) (hp : s.phase = .idle) (hs : s.inv = true) :
    (hostBind buf pos s).inv = true := by
  unfold hostBind
  split
  · next hpos =>
    obtain ⟨⟨⟨hmem, he, hcur, hseg, hres⟩, hw⟩, hheld, hhdr⟩ := (inv_idle hp).1 hs
    refine (inv_idle (by exact hp)).2 ⟨⟨⟨hmem, he, ?_, hseg, hres⟩, hw⟩, hheld, hhdr⟩
    simp only [State.cursorsOk, Bool.and_eq_true] at hcur ⊢
    exact ⟨⟨decide_eq_true hpos, hcur.1.2⟩, hcur.2⟩
  · exact inv_refuse hs _

theorem hostBindBytes_inv {s : State} (bytes : List Byte) (len pos : Nat) (hp : s.phase = .idle)
    (hs : s.inv = true) : (hostBindBytes bytes len pos s).inv = true := by
  unfold hostBindBytes
  split
  · exact hostBind_inv _ _ hp hs
  · exact inv_refuse hs _

theorem hostLoadSfbCb_inv {s : State} (g sfb : Nat) (v : BitVec 4) (hp : s.phase = .idle)
    (hs : s.inv = true) : (hostLoadSfbCb g sfb v s).inv = true := by
  have hwf := hostLoadSfbCb_mem_wf g sfb v s
  unfold hostLoadSfbCb at hwf ⊢
  split
  · next hx =>
    obtain ⟨⟨⟨hmem, he, hcur, hseg, hres⟩, hw⟩, hheld, hhdr⟩ := (inv_idle hp).1 hs
    rw [if_pos hx] at hwf
    refine (inv_idle (by exact hp)).2 ⟨⟨⟨hwf hmem, ?_, hcur, hseg, hres⟩, hw⟩, hheld, hhdr⟩
    simp only [State.elementsOk, Bool.and_eq_true] at he ⊢
    exact ⟨all_exist_cellWrite hx v he.1, he.2⟩
  · exact inv_refuse hs _

theorem exec_command_inv {s s' : State} (w : BitVec 1) (hp : s.phase = .idle) (hs : s.inv = true)
    (h : exec (commandOp w) s = .next s') : s'.inv = true := by
  unfold commandOp at h
  split at h
  · exact cmdHdr_inv hp hs h
  · obtain rfl : (cmdDec s).state = s' := Host.Outcome.next.inj h
    exact cmdDec_inv hp hs

theorem beginCommand_inv {s : State} (w : BitVec 1) (hp : s.phase = .idle) (hs : s.inv = true) :
    (beginCommand (commandOp w) s).inv = true := by
  obtain ⟨hg, hheld, hhdr⟩ := (inv_idle hp).1 hs
  unfold commandOp
  split
  · simp only [beginCommand, hp]
    exact inv_atField hg hheld rfl
  · simp only [beginCommand, hp]
    split
    · next hd => exact (inv_carveSf rfl).2 ⟨hg, hheld, hd, hhdr hd⟩
    · exact inv_refuse hs _

/-- Every act of the host in `IDLE` keeps the invariant. -/
theorem hostAct_inv {op : HostOp} {s s' : State} (hp : s.phase = .idle) (hs : s.inv = true)
    (h : hostAct op s = .next s') : s'.inv = true := by
  have hidle := (inv_idle hp).1 hs
  cases op with
  | command w how =>
    cases how with
    | whole => exact exec_command_inv w hp hs h
    | unguarded => exact exec_command_inv w hp hs h
    | stepped => obtain rfl := Host.Outcome.next.inj h; exact beginCommand_inv w hp hs
  | loadSfbCb g sfb v => obtain rfl := Host.Outcome.next.inj h; exact hostLoadSfbCb_inv g sfb v hp hs
  | bind buf pos => obtain rfl := Host.Outcome.next.inj h; exact hostBind_inv buf pos hp hs
  | bindBytes bytes len pos =>
    obtain rfl := Host.Outcome.next.inj h
    exact hostBindBytes_inv bytes len pos hp hs
  | loadIsEightShort | loadNoiseUsed | loadNumWindowGroups | loadMaxSfb | loadGlobalGain =>
    obtain rfl := Host.Outcome.next.inj h
    exact (inv_idle (by exact hp)).2 hidle

/-- A command that is issued while another runs is refused, and that is all (R142). -/
theorem exec_command_busy (w : BitVec 1) {s : State} (hp : s.phase ≠ .idle) :
    exec (commandOp w) s = .next (s.refuse .commandWhileBusy) := by
  unfold commandOp
  split
  · simp [exec, execCmdHdr, cmdHdr, hp]
  · simp [exec, execCmdDec, cmdDec, hp]

/-! ### The step, case by case -/

theorem step_marked {s : State} (hm : s.marked = true) :
    step s = if s.phase.inDec then .next s.leaveDec else stopMarked s := by
  simp only [step, sequenceStep, hm, if_true]

theorem step_idle_waits {s : State} (hm : s.marked = false) (hp : s.phase = .idle) (hh : s.host = []) :
    step s = .next s := by
  simp only [step, sequenceStep, hm, hp, hh, Bool.false_eq_true, if_false]

theorem step_idle_act {s : State} {op : HostOp} {rest : List HostOp} (hm : s.marked = false)
    (hp : s.phase = .idle) (hh : s.host = op :: rest) : step s = hostAct op { s with host := rest } := by
  simp only [step, sequenceStep, hm, hp, hh, Bool.false_eq_true, if_false]

theorem step_busy_command {s : State} {w : BitVec 1} {rest : List HostOp} (hm : s.marked = false)
    (hp : s.phase ≠ .idle) (hh : s.host = .command w .unguarded :: rest) :
    step s = .next (({ s with host := rest } : State).refuse .commandWhileBusy) := by
  rw [← exec_command_busy w (by exact hp)]
  simp only [step, sequenceStep, hm, Bool.false_eq_true, if_false]
  split
  · next h _ => exact absurd h hp
  · next h _ => exact absurd h hp
  · next h _ =>
    cases hh.symm.trans h
    rfl
  · next h _ _ => exact (h _ _ hh).elim

theorem step_quiet {s : State} (h : Claims.Quiet s) : step s = microStep s := by
  obtain ⟨hm, hp, hh⟩ := h
  simp only [step, sequenceStep, hm, Bool.false_eq_true, if_false]
  split
  · next h _ => exact absurd h hp
  · next h _ => exact absurd h hp
  · next h _ => exact absurd h (hh _ _)
  · rfl

/-- The `RELEASE` that a marked state owes (R155). -/
theorem inv_release_owed {s : State} (hd : s.phase.inDec = true) (hs : s.inv = true) :
    s.leaveDec.inv = true := by
  obtain ⟨hg, -, hhdr, -⟩ := (inv_iff s).1 hs
  refine inv_leaveDec hg ?_
  unfold State.headerOk at hhdr
  cases hp : s.phase with
  | idle => simp [hp, Phase.inDec] at hd
  | hdr f => simp [hp, Phase.inDec] at hd
  | carve _ | decode _ | release => simpa [hp, Parsed] using hhdr

/-- A marked state that owes no `RELEASE` stops (R29). -/
theorem stopMarked_ne_next {s s' : State} (hm : s.marked = true) : stopMarked s ≠ .next s' := by
  unfold stopMarked
  split
  · nofun
  · nofun
  · next hf hr => simp [State.marked, hf, hr] at hm

/-- Settles O56. A marked state only releases; an idle one takes an act of the host; any other runs one
micro-operation of its command, or refuses another command. -/
theorem stepKeepsInvariant : Obligations.StepKeepsInvariant := by
  intro s s' hs h
  cases hm : s.marked with
  | true =>
    rw [step_marked hm] at h
    split at h
    · next hd =>
      obtain rfl := Host.Outcome.next.inj h
      exact inv_release_owed hd hs
    · exact absurd h (stopMarked_ne_next hm)
  | false =>
    by_cases hp : s.phase = .idle
    · cases hh : s.host with
      | nil =>
        obtain rfl := Host.Outcome.next.inj ((step_idle_waits hm hp hh).symm.trans h)
        exact hs
      | cons op rest =>
        rw [step_idle_act hm hp hh] at h
        exact hostAct_inv (s := { s with host := rest }) hp hs h
    · by_cases hh : ∃ w rest, s.host = .command w .unguarded :: rest
      · obtain ⟨w, rest, hh⟩ := hh
        obtain rfl := Host.Outcome.next.inj ((step_busy_command hm hp hh).symm.trans h)
        exact inv_refuse (s := { s with host := rest }) hs _
      · rw [step_quiet ⟨hm, hp, fun w rest h => hh ⟨w, rest, h⟩⟩] at h
        exact microStep_inv hp hm hs h

end Sys2Proof.Machine
end

/-! ## The walk finds the first matching entry (R74, R105 to R107, R110, R112) -/

section
namespace Sys2Proof.Machine

open Sys2Proof.Claims

/-! ### What the bits hold, along a table -/

theorem codeAt_nil (sent : RomEntry) (bits : Bits) : codeAt ⟨[], sent⟩ bits = (sent.val, sent.len) := rfl

theorem codeAt_cons_match {e : RomEntry} {es : List RomEntry} {sent : RomEntry} {bits : Bits}
    (h : codewordAt bits e = true) : codeAt ⟨e :: es, sent⟩ bits = (e.val, e.len) := by
  simp only [codeAt, List.find?_cons_of_pos h]

theorem codeAt_cons_other {e : RomEntry} {es : List RomEntry} {sent : RomEntry} {bits : Bits}
    (h : ¬ codewordAt bits e = true) : codeAt ⟨e :: es, sent⟩ bits = codeAt ⟨es, sent⟩ bits := by
  simp only [codeAt, List.find?_cons_of_neg h]

/-- No entry of a table is shorter than a lower bound of its lengths. -/
theorem le_codeAt_len {n : Nat} {sent : RomEntry} (bits : Bits) (hs : n ≤ sent.len) :
    ∀ {es : List RomEntry}, (∀ e ∈ es, n ≤ e.len) → n ≤ (codeAt ⟨es, sent⟩ bits).2
  | [], _ => hs
  | e :: es, h => by
    by_cases hm : codewordAt bits e = true
    · rw [codeAt_cons_match hm]
      exact h e (by simp)
    · rw [codeAt_cons_other hm]
      exact le_codeAt_len bits hs fun x hx => h x (by simp [hx])

/-- The codeword register equals an entry's codeword exactly when that codeword stands at the cursor. -/
theorem bitsVal_take_eq_iff {e : RomEntry} {bits : Bits} (hfit : e.cw < 2 ^ e.len)
    (hin : e.len ≤ bits.length) : bitsVal (bits.take e.len) = e.cw ↔ codewordAt bits e = true := by
  have hlen : (bits.take e.len).length = e.len := by simpa using hin
  rw [codewordAt, decide_eq_true_eq]
  constructor
  · intro h
    have hb := bitsOf_bitsVal (bits.take e.len)
    rw [hlen, h] at hb
    exact hb.symm
  · intro h
    rw [h, bitsVal_bitsOf, Nat.mod_eq_of_lt hfit]

/-! ### Well-formed tables -/

/-- The lengths of an ascending table never decrease (R72). -/
theorem pairwise_len_of_romAscending : ∀ {es : List RomEntry}, romAscending es = true →
    es.Pairwise fun a b => a.len ≤ b.len
  | [], _ => .nil
  | [e], _ => List.pairwise_singleton _ e
  | a :: b :: rest, h => by
    simp only [romAscending, Bool.and_eq_true, decide_eq_true_eq] at h
    have ih := pairwise_len_of_romAscending h.2
    have hab : a.len ≤ b.len := by omega
    refine List.pairwise_cons.2 ⟨fun x hx => ?_, ih⟩
    rcases List.mem_cons.1 hx with rfl | hx
    · exact hab
    · exact hab.trans ((List.pairwise_cons.1 ih).1 x hx)

/-- What a walk needs of the entries it has still to visit and of the sentinel (R72 to R74). -/
structure Walkable (es : List RomEntry) (sent : RomEntry) : Prop where
  rising : (es ++ [sent]).Pairwise fun a b => a.len ≤ b.len
  short : ∀ e ∈ es, e.len < sent.len
  fits : ∀ e ∈ es, e.cw < 2 ^ e.len

theorem Walkable.tail {e : RomEntry} {es : List RomEntry} {sent : RomEntry}
    (h : Walkable (e :: es) sent) : Walkable es sent :=
  ⟨(List.pairwise_cons.1 h.rising).2, fun x hx => h.short x (by simp [hx]),
    fun x hx => h.fits x (by simp [hx])⟩

theorem Walkable.head_le {e : RomEntry} {es : List RomEntry} {sent : RomEntry}
    (h : Walkable (e :: es) sent) : ∀ x ∈ es, e.len ≤ x.len := fun x hx =>
  (List.pairwise_cons.1 h.rising).1 x (by simp [hx])

/-- The bits hold no code shorter than the first entry's. -/
theorem Walkable.head_le_codeAt {e : RomEntry} {es : List RomEntry} {sent : RomEntry}
    (h : Walkable (e :: es) sent) (bits : Bits) : e.len ≤ (codeAt ⟨e :: es, sent⟩ bits).2 :=
  le_codeAt_len bits (h.short e (by simp)).le fun x hx => by
    rcases List.mem_cons.1 hx with rfl | hx
    · exact le_rfl
    · exact h.head_le x hx

/-- A well-formed table has a first entry, and a walk can go along it. -/
theorem walkable_of_wf {T : Rom} {m : Nat} (h : T.wf m = true) :
    ∃ e es, T = ⟨e :: es, T.sentinel⟩ ∧ 1 ≤ e.len ∧ Walkable (e :: es) T.sentinel := by
  obtain ⟨entries, sent⟩ := T
  simp only [Rom.wf, Bool.and_eq_true] at h
  obtain ⟨⟨⟨⟨⟨⟨⟨hasc, hsent⟩, hne⟩, hfirst⟩, hshort⟩, hfit⟩, -⟩, -⟩ := h
  cases entries with
  | nil => simp [Rom.nonEmpty] at hne
  | cons e es =>
    simp only [Rom.sentinelOk, decide_eq_true_eq] at hsent
    simp only [Rom.interiorShort, List.all_eq_true, decide_eq_true_eq, ← hsent.2] at hshort
    simp only [Rom.codewordsFit, Rom.all, List.all_eq_true, decide_eq_true_eq] at hfit
    exact ⟨e, es, rfl, by simpa [Rom.positiveFirst, Rom.first] using hfirst,
      pairwise_len_of_romAscending hasc, hshort, fun x hx => hfit x (List.mem_append_left _ hx)⟩

/-! ### One step of the walk -/

/-- The cursor `n` bits into `bits`, which begin after `pre`. -/
def cursorAt (pre bits : Bits) (n : Nat) : Cursor := ⟨pre ++ bits, pre.length + n⟩

theorem read_cursorAt (p : OverrunPolicy) (pre bits : Bits) {n m : Nat} (hnm : n ≤ m)
    (hm : m ≤ bits.length) :
    (cursorAt pre bits n).read p (m - n) =
      some (bitsVal ((bits.drop n).take (m - n)), cursorAt pre bits m) := by
  have hdrop : (pre ++ bits).drop (pre.length + n) = bits.drop n := by simp [List.drop_append]
  rw [Cursor.read_inside _ _ _ (by simp [cursorAt, Cursor.len]; omega)]
  simp only [cursorAt, memRead, hdrop, Nat.add_assoc, Nat.add_sub_cancel' hnm]

theorem read_cursorAt_short (pre : Bits) {bits : Bits} {n m : Nat} (hn : n ≤ bits.length)
    (hm : bits.length < m) : (cursorAt pre bits n).read .fault (m - n) = none :=
  Cursor.read_overrun _ _ (by omega) (by simp [cursorAt, Cursor.len]; omega)

/-- The codeword register after the incremental bits of one step (R106). -/
theorem bitsVal_take_extend {bits : Bits} {n m : Nat} (hnm : n ≤ m) (hm : m ≤ bits.length) :
    bitsVal (bits.take n) <<< (m - n) ||| bitsVal ((bits.drop n).take (m - n)) =
      bitsVal (bits.take m) := by
  have hlen : ((bits.drop n).take (m - n)).length = m - n := by simp; omega
  have hlt := bitsVal_lt ((bits.drop n).take (m - n))
  rw [hlen] at hlt
  rw [← Nat.shiftLeft_add_eq_or_of_lt hlt, Nat.shiftLeft_eq]
  conv_rhs => rw [show m = n + (m - n) by omega, List.take_add, bitsVal_append, hlen]

/-- A step of the walk whose bits are there goes on at the next entry. -/
theorem walkLoop_next (p : OverrunPolicy) {maxLen : Nat} {e e' : RomEntry} (k : Nat) (pre : Bits)
    {bits : Bits} (rest : List RomEntry) (hne : bitsVal (bits.take e.len) ≠ e.cw) (hmax : e.len ≠ maxLen)
    (hle : e.len ≤ e'.len) (hin : e'.len ≤ bits.length) :
    walkLoop p maxLen e k e.len (bitsVal (bits.take e.len)) (cursorAt pre bits e.len) (e' :: rest) =
      walkLoop p maxLen e' (k + 1) e'.len (bitsVal (bits.take e'.len)) (cursorAt pre bits e'.len) rest := by
  simp only [walkLoop, if_neg hne, if_neg hmax, read_cursorAt p pre bits hle hin,
    bitsVal_take_extend hle hin, Nat.add_sub_cancel' hle]

/-- A step of the walk whose bits are not there raises an overrun under the default policy. -/
theorem walkLoop_short {maxLen : Nat} {e e' : RomEntry} (k : Nat) (pre : Bits) {bits : Bits}
    (rest : List RomEntry) (hne : bitsVal (bits.take e.len) ≠ e.cw) (hmax : e.len ≠ maxLen)
    (hin : e.len ≤ bits.length) (hshort : bits.length < e'.len) :
    ∃ w c, walkLoop .fault maxLen e k e.len (bitsVal (bits.take e.len)) (cursorAt pre bits e.len)
      (e' :: rest) = .overrun w c := by
  simp only [walkLoop, if_neg hne, if_neg hmax, read_cursorAt_short pre hin hshort]
  exact ⟨_, _, rfl⟩

/-! ### The whole walk -/

/-- What a walk of the bits after `pre` owes when the table finds the value and length `r` in them: that
value, with that many bits consumed; under the default policy an overrun when they are not there. -/
def WalkMeets (p : OverrunPolicy) (pre bits : Bits) (r : Int × Nat) (w : WalkResult) : Prop :=
  (r.2 ≤ bits.length → ∃ k, w = .value r.1 k (cursorAt pre bits r.2)) ∧
    (bits.length < r.2 → p = .fault → ∃ g c, w = .overrun g c)

/-- A walk stops at the entry whose codeword stands at the cursor. -/
theorem walkLoop_meets_of_match (p : OverrunPolicy) {sent e e' : RomEntry} {es rest : List RomEntry}
    (k : Nat) (pre : Bits) {bits : Bits} (hm : codewordAt bits e = true)
    (hcw : bitsVal (bits.take e.len) = e.cw) (hin : e.len ≤ bits.length) :
    WalkMeets p pre bits (codeAt ⟨e :: es, sent⟩ bits)
      (walkLoop p sent.len e k e.len (bitsVal (bits.take e.len)) (cursorAt pre bits e.len)
        (e' :: rest)) := by
  rw [codeAt_cons_match hm]
  exact ⟨fun _ => ⟨k, by simp only [walkLoop, if_pos hcw]⟩, fun h => absurd hin (Nat.not_le.2 h)⟩

theorem walkLoop_meets (p : OverrunPolicy) (pre bits : Bits) (sent : RomEntry) (es : List RomEntry) :
    ∀ (e : RomEntry) (k : Nat), Walkable (e :: es) sent → e.len ≤ bits.length →
      WalkMeets p pre bits (codeAt ⟨e :: es, sent⟩ bits)
        (walkLoop p sent.len e k e.len (bitsVal (bits.take e.len)) (cursorAt pre bits e.len)
          (es ++ [sent])) := by
  induction es with
  | nil =>
    intro e k hw hin
    have hiff := bitsVal_take_eq_iff (hw.fits e (by simp)) hin
    have hshort := hw.short e (by simp)
    by_cases hm : codewordAt bits e = true
    · exact walkLoop_meets_of_match p k pre hm (hiff.2 hm) hin
    · rw [codeAt_cons_other hm, codeAt_nil]
      have hne := mt hiff.1 hm
      refine ⟨fun h => ⟨k + 1, ?_⟩, fun h hp => ?_⟩
      · exact walkLoop_next p k pre [] hne hshort.ne hshort.le h
      · subst hp
        exact walkLoop_short k pre [] hne hshort.ne hin h
  | cons e' es ih =>
    intro e k hw hin
    have hiff := bitsVal_take_eq_iff (hw.fits e (by simp)) hin
    have hshort := hw.short e (by simp)
    by_cases hm : codewordAt bits e = true
    · exact walkLoop_meets_of_match p k pre hm (hiff.2 hm) hin
    · rw [codeAt_cons_other hm]
      have hne := mt hiff.1 hm
      by_cases hin' : e'.len ≤ bits.length
      · have hstep := walkLoop_next p k pre (es ++ [sent]) hne hshort.ne (hw.head_le e' (by simp)) hin'
        rw [List.cons_append, hstep]
        exact ih e' (k + 1) hw.tail hin'
      · have hlt := Nat.not_le.1 hin'
        refine ⟨fun h => absurd ((hw.tail.head_le_codeAt bits).trans h) hin', fun _ hp => ?_⟩
        subst hp
        exact walkLoop_short k pre (es ++ [sent]) hne hshort.ne hin hlt

theorem walkTable_meets (p : OverrunPolicy) {T : Rom} {m : Nat} (h : T.wf m = true) (pre bits : Bits) :
    WalkMeets p pre bits (codeAt T bits) (walkTable p T (cursorAt pre bits 0)) := by
  obtain ⟨e, es, hT, hpos, hw⟩ := walkable_of_wf h
  generalize T.sentinel = sent at hT hw
  subst hT
  by_cases hin : e.len ≤ bits.length
  · have hread := read_cursorAt p pre bits (Nat.zero_le e.len) hin
    have hwalk : walkTable p ⟨e :: es, sent⟩ (cursorAt pre bits 0) =
        walkLoop p sent.len e 0 e.len (bitsVal (bits.take e.len)) (cursorAt pre bits e.len)
          (es ++ [sent]) := by
      simp only [Nat.sub_zero, List.drop_zero] at hread
      simp only [walkTable, Rom.first, Rom.all, List.headD_cons, List.cons_append, List.tail_cons, hread]
    rw [hwalk]
    exact walkLoop_meets p pre bits sent es e 0 hw hin
  · have hlt := Nat.not_le.1 hin
    refine ⟨fun h => absurd ((hw.head_le_codeAt bits).trans h) hin, fun _ hp => ?_⟩
    subst hp
    have hread := read_cursorAt_short pre (Nat.zero_le bits.length) hlt
    rw [Nat.sub_zero] at hread
    simp only [walkTable, Rom.first, List.headD_cons, hread]
    exact ⟨_, _, rfl⟩

/-- Both tables of an admitted configuration are well formed (R72 to R74, R105). -/
theorem romOfSub_wf {c : Config} (h : c.wf = true) (x : SubId) : ∃ m, (romOfSub c x).wf m = true := by
  simp only [Config.wf, Bool.and_eq_true] at h
  obtain ⟨⟨⟨⟨hsf, hesc⟩, -⟩, -⟩, -⟩ := h
  cases x with
  | sf => exact ⟨10, hsf⟩
  | esc => exact ⟨21, hesc⟩

/-- R106: a walk whose bits are in the segment. -/
theorem walk_done {s : State} {x : SubId} {pre bits : Bits} (hwf : s.cfg.wf = true)
    (hx : s.sub x = some ⟨pre ++ bits, pre.length⟩)
    (hin : (codeAt (romOfSub s.cfg x) bits).2 ≤ bits.length) :
    walk x s = .done (codeAt (romOfSub s.cfg x) bits).1
      (walked s x pre bits (codeAt (romOfSub s.cfg x) bits).2 (codeAt (romOfSub s.cfg x) bits).1) := by
  obtain ⟨m, hm⟩ := romOfSub_wf hwf x
  obtain ⟨k, hk⟩ := (walkTable_meets s.cfg.overrunPolicy hm pre bits).1 hin
  have hc : s.subCursor x = cursorAt pre bits 0 := by simp [State.subCursor, hx, cursorAt]
  simp only [walk, hc, hk]
  rfl

/-- R112: a walk whose bits run short under the default policy. -/
theorem walk_short {s : State} {x : SubId} (hwf : s.cfg.wf = true)
    (hp : s.cfg.overrunPolicy = .fault) (hx : LookupShort s x) :
    ∃ w c, walk x s = .ended ({ s.moveSub x c with walker := w }.raiseFault (.cursorOverrun x.cursorId)) := by
  obtain ⟨m, hm⟩ := romOfSub_wf hwf x
  have hends : ∃ w c, walkTable s.cfg.overrunPolicy (romOfSub s.cfg x) (s.subCursor x) = .overrun w c := by
    rcases hx with hnone | ⟨pre, bits, hsome, hlt⟩
    · have hc : s.subCursor x = cursorAt [] [] 0 := by
        simp [State.subCursor, hnone, cursorAt, Cursor.empty]
      have hpos : 0 < (codeAt (romOfSub s.cfg x) []).2 := by
        obtain ⟨e, es, hT, hpos, hw⟩ := walkable_of_wf hm
        rw [hT]
        exact hpos.trans (hw.head_le_codeAt [])
      rw [hc]
      exact (walkTable_meets _ hm [] []).2 hpos hp
    · have hc : s.subCursor x = cursorAt pre bits 0 := by simp [State.subCursor, hsome, cursorAt]
      rw [hc]
      exact (walkTable_meets _ hm pre bits).2 hlt hp
  obtain ⟨w, c, hwc⟩ := hends
  exact ⟨w, c, by simp only [walk, hwc]⟩

end Sys2Proof.Machine
end

/-! ## `HUFF_SF`: the primary value, the escape value, and their composition (R80, R110) -/

section
namespace Sys2Proof.Machine

open Sys2Proof.Claims

theorem walked_cfg (s : State) (x : SubId) (pre bits : Bits) (n : Nat) (v : Int) :
    (walked s x pre bits n v).cfg = s.cfg :=
  State.moveSub_cfg s x _

theorem walk_sf_of_primaryAt {s s' : State} {v : Int} (hwf : s.cfg.wf = true) (h : PrimaryAt s v s') :
    walk .sf s = .done v s' ∧ s'.cfg = s.cfg := by
  obtain ⟨pre, bits, hsf, hin, rfl, rfl⟩ := h
  exact ⟨walk_done (x := .sf) hwf hsf hin, walked_cfg ..⟩

theorem walk_esc_of_escapeAt {s s' : State} {e : Int} (hwf : s.cfg.wf = true) (h : EscapeAt s e s') :
    walk .esc s = .done e s' := by
  obtain ⟨pre, bits, hesc, hin, rfl, rfl⟩ := h
  exact walk_done (x := .esc) hwf hesc hin

/-- The two sign tests of `HUFF_SF` together ask for the escape marker. -/
theorem isMarker_iff (c : Config) (v : Int) :
    IsMarker c v ↔ isPosMarker c v = true ∨ isNegMarker c v = true := by
  simp [IsMarker, isPosMarker, isNegMarker]

/-- R110: a primary value that is no marker is returned as it is. -/
theorem huffSf_plain {s s₁ : State} {v : Int} (h₁ : walk .sf s = .done v s₁) (hm : ¬ IsMarker s₁.cfg v) :
    huffSf s = .done v { s₁ with huffValue := some v } := by
  rw [isMarker_iff, not_or] at hm
  simp only [huffSf, h₁, Micro.andThen_done, if_neg hm.1, if_neg hm.2]
  rfl

/-- R80, R110: after a marker the escape value is composed with it, by the marker's sign. -/
theorem huffSf_marker {s s₁ s₂ : State} {v e : Int} (h₁ : walk .sf s = .done v s₁)
    (hm : IsMarker s₁.cfg v) (h₂ : walk .esc s₁ = .done e s₂) :
    huffSf s = returnDelta
      (if e = 99 then 99 else if v = s₁.cfg.escVal then v + e else v - e) s₂ := by
  have hnomatch : isNomatch e = true ↔ e = 99 := decide_eq_true_iff
  simp only [huffSf, h₁, h₂, Micro.andThen_done, hnomatch]
  by_cases hpos : v = s₁.cfg.escVal
  · simp only [isPosMarker, hpos, decide_true, if_true, noMatch]
    split <;> rfl
  · have hneg : v = -(s₁.cfg.escVal : Int) := hm.resolve_left hpos
    simp only [isPosMarker, isNegMarker, hpos, decide_false, Bool.false_eq_true, if_false,
      decide_eq_true_eq, if_pos hneg, noMatch]
    split <;> rfl

/-- R112: an escape lookup that is ended ends `HUFF_SF`. -/
theorem huffSf_ended_esc {s s₁ t : State} {v : Int} (h₁ : walk .sf s = .done v s₁)
    (hm : IsMarker s₁.cfg v) (h₂ : walk .esc s₁ = .ended t) : huffSf s = .ended t := by
  simp only [huffSf, h₁, h₂, Micro.andThen_done, Micro.andThen_ended]
  rcases (isMarker_iff _ _).1 hm with hpos | hneg
  · rw [if_pos hpos]
  · rw [if_pos hneg, ite_self]

/-- R112: a primary lookup that is ended ends `HUFF_SF`. -/
theorem huffSf_ended_sf {s t : State} (h : walk .sf s = .ended t) : huffSf s = .ended t := by
  simp only [huffSf, h, Micro.andThen_ended]

theorem huffSf_of_huffAt {s s' : State} {d : Int} (hwf : s.cfg.wf = true) (h : HuffAt s d s') :
    huffSf s = .done d s' ∧ s'.huffValue = some d := by
  obtain ⟨v, s₁, hprim, ⟨hm, rfl, rfl⟩ | ⟨hm, e, s₂, hesc, rfl, rfl⟩⟩ := h
  · obtain ⟨h₁, hcfg⟩ := walk_sf_of_primaryAt hwf hprim
    exact ⟨huffSf_plain h₁ (by rwa [hcfg]), rfl⟩
  · obtain ⟨h₁, hcfg⟩ := walk_sf_of_primaryAt hwf hprim
    have h₂ := walk_esc_of_escapeAt (by rwa [hcfg]) hesc
    refine ⟨?_, rfl⟩
    rw [huffSf_marker h₁ (by rwa [hcfg]) h₂, hcfg]
    rfl

/-- `HUFF_SF` with a delta that runs short: the mark of the lookup that ran short, and no value. -/
theorem huffSf_of_deltaShort {s : State} {x : SubId} (hwf : s.cfg.wf = true)
    (hp : s.cfg.overrunPolicy = .fault) (h : DeltaShort s x) :
    ∃ t, huffSf s = .ended t ∧ t.fault = some (.cursorOverrun x.cursorId) ∧ t.huffValue = s.huffValue := by
  rcases h with ⟨rfl, hshort⟩ | ⟨rfl, v, s₁, hprim, hm, hshort⟩
  · obtain ⟨w, c, hwalk⟩ := walk_short hwf hp hshort
    exact ⟨_, huffSf_ended_sf hwalk, rfl, rfl⟩
  · obtain ⟨h₁, hcfg⟩ := walk_sf_of_primaryAt hwf hprim
    obtain ⟨w, c, hwalk⟩ := walk_short (by rwa [hcfg]) (by rwa [hcfg]) hshort
    obtain ⟨pre, bits, -, -, -, rfl⟩ := hprim
    exact ⟨_, huffSf_ended_esc h₁ (by rwa [hcfg]) hwalk, rfl, rfl⟩

/-- `HUFF_SF` does not write the delta register (R37). -/
theorem huffSf_t (s : State) : (huffSf s).state.t = s.t := by
  refine Micro.post_state (P := fun t => t.t = s.t) (Micro.post_mono (huffSf_frame s) ?_ ?_)
  · rintro _ _ ⟨⟨a, b, w, v, d, rfl, -, -⟩, -, -⟩
    rfl
  · rintro _ ⟨_, x, ⟨a, b, w, v, d, rfl, -, -⟩, rfl⟩
    rfl

/-- Settles O24: the walk finds the code that stands at each segment, and `HUFF_SF` composes the two
values. -/
theorem huffSfComposesEscape : Obligations.HuffSfComposesEscape := by
  intro s hwf
  have ht := huffSf_t s
  refine ⟨fun d s' h => ?_, fun x hp h => ?_⟩
  · obtain ⟨hdone, hvalue⟩ := huffSf_of_huffAt hwf h
    rw [hdone] at ht
    exact ⟨by simp only [exec, execHuffSf, hdone, Micro.outcome_eq, Micro.state_done], hvalue, ht⟩
  · obtain ⟨t, hended, hfault, hvalue⟩ := huffSf_of_deltaShort hwf hp h
    rw [hended] at ht
    exact ⟨t, by simp only [exec, execHuffSf, hended, Micro.outcome_eq, Micro.state_ended], hfault, hvalue, ht⟩

end Sys2Proof.Machine
end

/-! ## Reset, unwritten locations, marks, and the start of a run (R14, R29, R34, R52, R117, R155) -/

section
namespace Sys2Proof.Machine

open Sys2Proof.Claims

/-! ### Reset -/

/-- Settles O54: every register is absent, the phase is `IDLE`, and neither table lists an element. -/
theorem resetState : Obligations.ResetState := by
  intro c
  refine ⟨rfl, rfl, rfl, rfl, rfl, rfl, rfl, rfl, rfl, rfl, rfl, rfl, rfl, rfl, rfl, rfl, rfl, rfl, rfl,
    rfl, rfl, rfl, rfl, rfl, rfl, rfl, rfl, rfl, fun g sfb => rfl, fun g sfb => rfl⟩

/-- Settles O55: at reset the unit is idle, holds no sub-cursor, and has parsed no header. -/
theorem invariantAtReset : Obligations.InvariantAtReset := by
  intro c
  exact (inv_idle rfl).2 ⟨⟨⟨rfl, rfl, rfl, rfl, rfl⟩, rfl⟩, ⟨rfl, rfl⟩, nofun⟩

/-! ### Marks -/

/-- Settles O51: the step of a marked state is the `RELEASE` it owes, or the stop with its mark. -/
theorem markedStateOnlyReleases : Obligations.MarkedStateOnlyReleases := by
  intro s hm
  refine ⟨fun hd => ?_, fun hd => ⟨fun r hf => ?_, fun r hf hr => ?_⟩⟩
  · rw [step_marked hm, if_pos hd]
    rfl
  · simp only [step_marked hm, hd, stopMarked, hf, Bool.false_eq_true, if_false]
  · simp only [step_marked hm, hd, stopMarked, hf, hr, Bool.false_eq_true, if_false]

/-! ### Unwritten locations -/

/-- Settles O48: the dispatch reads the codebook before it selects an operation. -/
theorem unwrittenCodebookFaults : Obligations.UnwrittenCodebookFaults := by
  intro s p hq hp hd hpc hcb
  have hfetch : fetchOp s = .ended (s.raiseFault (.unwrittenRead (.sfbCb p.g p.sfb))) := by
    simp only [fetchOp, hp, fetchBand, hd, hpc, readCodebook, hcb, need_some, need_none,
      Micro.andThen_done, Micro.andThen_ended]
  rw [step_quiet hq, microStep, hfetch]
  rfl

theorem readMain_unbound {s : State} (n : Nat) (h : s.main = none) :
    readMain n s = .ended (s.raiseFault (.unwrittenRead .main)) := by
  simp only [readMain, h, need_none, Micro.andThen_ended]

/-- Nothing after a `raise` runs (R10), and the step leaves the marked state. -/
theorem outcome_andThen_ended {α β : Type} {m : Micro α} {t : State} (h : m = .ended t)
    (f : α → State → Micro β) : (m.andThen f).outcome = .next t := by
  rw [h]
  rfl

/-- Every header field operation begins with a read of `main` (R85). -/
theorem exec_headerField_unbound {s : State} {i : Instr} {w : Nat} (hi : (i, w) ∈ headerWidths)
    (h : s.main = none) : exec i s = .next (s.raiseFault (.unwrittenRead .main)) := by
  have read := fun n => readMain_unbound (s := s) n h
  have readBit : readMainBit s = .ended (s.raiseFault (.unwrittenRead .main)) := by
    rw [readMainBit, read 1, Micro.andThen_ended]
  simp only [headerWidths, List.mem_cons, Prod.mk.injEq, List.not_mem_nil, or_false] at hi
  rcases hi with ⟨rfl, -⟩ | ⟨rfl, -⟩ | ⟨rfl, -⟩ | ⟨rfl, -⟩ | ⟨rfl, -⟩ | ⟨rfl, -⟩ | ⟨rfl, -⟩ |
    ⟨rfl, -⟩
  · exact outcome_andThen_ended readBit _
  · exact outcome_andThen_ended (read 8) _
  · exact outcome_andThen_ended (read 9) _
  · exact outcome_andThen_ended (read 11) _
  · exact outcome_andThen_ended (read noiseBits) _
  · exact outcome_andThen_ended readBit _
  · exact outcome_andThen_ended (read 8) _
  · exact outcome_andThen_ended (read 9) _

/-- With `w` bits in `main` the operation completes, moves `main` past them, and leaves the parser's two
inputs alone. -/
def ReadsBits (op : State → Micro Unit) (w : Nat) : Prop :=
  ∀ (s : State) (c : Cursor), s.main = some c → c.pos + w ≤ c.len →
    ∃ t, op s = .done () t ∧ t.main = some { c with pos := c.pos + w } ∧
      t.isEightShort = s.isEightShort ∧ t.noiseUsed = s.noiseUsed

theorem ReadsBits.atField {op : State → Micro Unit} {w : Nat} (h : ReadsBits op w) (f : HdrStep) :
    ReadsBits (atField f op) w :=
  fun s c hm hc => h { s with phase := .hdr f } c hm hc

theorem hdrSfc_readsBits : ReadsBits hdrSfc 1 := by
  intro s c hm hc
  rw [hdrSfc, readMainBit, readMain_inside 1 s c hm hc]
  exact ⟨_, rfl, rfl, rfl, rfl⟩

theorem hdrRgg_readsBits : ReadsBits hdrRgg 8 := by
  intro s c hm hc
  rw [hdrRgg, readMain_inside 8 s c hm hc]
  exact ⟨_, rfl, rfl, rfl, rfl⟩

theorem hdrLenSf_readsBits (w : Nat) : ReadsBits (hdrLenSf w) w := by
  intro s c hm hc
  rw [hdrLenSf, readMain_inside w s c hm hc]
  exact ⟨_, rfl, rfl, rfl, rfl⟩

/-- The first two fields are parsed whatever the inputs hold (R85). -/
theorem first_two_fields {s : State} {c : Cursor} (hm : s.main = some c) (hc : c.pos + 9 ≤ c.len) :
    ∃ s₁ s₂, atField .sfc hdrSfc s = .done () s₁ ∧ atField .rgg hdrRgg s₁ = .done () s₂ ∧
      s₂.main = some { c with pos := c.pos + 9 } ∧ s₂.isEightShort = s.isEightShort ∧
      s₂.noiseUsed = s.noiseUsed := by
  obtain ⟨s₁, h₁, hm₁, he₁, hn₁⟩ := hdrSfc_readsBits.atField .sfc s c hm (by omega)
  have hc₁ : c.pos + 1 + 8 ≤ c.len := by omega
  obtain ⟨s₂, h₂, hm₂, he₂, hn₂⟩ := hdrRgg_readsBits.atField .rgg s₁ _ hm₁ hc₁
  exact ⟨s₁, s₂, h₁, h₂, hm₂, he₂.trans he₁, hn₂.trans hn₁⟩

/-- The parse ends at the length field when `is_eight_short` was never written (R14, R88). -/
theorem hdrParse_needs_isEightShort {s s₁ s₂ : State} (h₁ : atField .sfc hdrSfc s = .done () s₁)
    (h₂ : atField .rgg hdrRgg s₁ = .done () s₂) (he : s₂.isEightShort = none) :
    ∃ t, hdrParse s = .ended t ∧ t.fault = some (.unwrittenRead .isEightShort) := by
  have h₃ : atField .lenSf parseLenSf s₂ =
      .ended (({ s₂ with phase := .hdr .lenSf } : State).raiseFault (.unwrittenRead .isEightShort)) :=
    parseLenSf_unwritten (s := { s₂ with phase := .hdr .lenSf }) he
  refine ⟨({ s₂ with phase := .hdr .lenSf } : State).raiseFault (.unwrittenRead .isEightShort), ?_, rfl⟩
  rw [hdrParse, h₁, Micro.andThen_done, h₂, Micro.andThen_done]
  exact congrArg (Micro.andThen · _) h₃

/-- The parse ends after the length field when `noise_used` was never written (R14, R89). -/
theorem hdrParse_needs_noiseUsed {s s₁ s₂ s₃ : State} {short : Bool}
    (h₁ : atField .sfc hdrSfc s = .done () s₁) (h₂ : atField .rgg hdrRgg s₁ = .done () s₂)
    (he : s₂.isEightShort = some short)
    (h₃ : atField .lenSf (hdrLenSf (if short then 11 else 9)) s₂ = .done () s₃)
    (hn : s₃.noiseUsed = none) :
    ∃ t, hdrParse s = .ended t ∧ t.fault = some (.unwrittenRead .noiseUsed) := by
  have h₃ : atField .lenSf parseLenSf s₂ = .done () s₃ :=
    (parseLenSf_eq (s := { s₂ with phase := .hdr .lenSf }) he).trans h₃
  refine ⟨s₃.raiseFault (.unwrittenRead .noiseUsed), ?_, rfl⟩
  rw [hdrParse, h₁, Micro.andThen_done, h₂, Micro.andThen_done]
  refine (congrArg (Micro.andThen · _) h₃).trans ?_
  rw [Micro.andThen_done, hn, need_none, Micro.andThen_ended]

theorem exec_cmdHdr_of_ended {s t : State} (hp : s.phase = .idle)
    (h : hdrParse { s with phase := .hdr .sfc } = .ended t) : exec .cmdHdr s = .next t := by
  simp only [exec, execCmdHdr, cmdHdr, if_pos hp, h, Micro.andThen_ended, Micro.outcome_eq,
    Micro.state_ended]

/-- Settles O13: a field operation begins with a read of `main`; a `CMD_HDR` reads its two inputs after
the second and after the third field. -/
theorem headerReadsOfUnwrittenStateFault : Obligations.HeaderReadsOfUnwrittenStateFault := by
  refine ⟨fun s i w hi hm => exec_headerField_unbound hi hm, fun s c hp hm => ⟨?_, ?_⟩⟩
  · intro hc he
    obtain ⟨s₁, s₂, h₁, h₂, -, he₂, -⟩ :=
      first_two_fields (s := { s with phase := .hdr .sfc }) hm hc
    obtain ⟨t, ht, hf⟩ := hdrParse_needs_isEightShort h₁ h₂ (he₂.trans he)
    exact ⟨t, exec_cmdHdr_of_ended hp ht, hf⟩
  · intro hc he hn
    obtain ⟨s₁, s₂, h₁, h₂, hm₂, he₂, hn₂⟩ :=
      first_two_fields (s := { s with phase := .hdr .sfc }) hm (by omega)
    obtain ⟨short, hshort⟩ := Option.ne_none_iff_exists'.1 he
    have hc₂ : c.pos + 9 + (if short then 11 else 9) ≤ c.len := by split <;> omega
    obtain ⟨s₃, h₃, -, -, hn₃⟩ := (hdrLenSf_readsBits _).atField .lenSf s₂ _ hm₂ hc₂
    obtain ⟨t, ht, hf⟩ := hdrParse_needs_noiseUsed h₁ h₂ (he₂.trans hshort) h₃
      (hn₃.trans (hn₂.trans hn))
    exact ⟨t, exec_cmdHdr_of_ended hp ht, hf⟩

/-! ### The start of a run -/

section
variable {s : State} {groups : BitVec 4} {bands : BitVec 6}

theorem fwdInit_needs_groups (hg : s.numWindowGroups = none) :
    fwdInit s = .ended (s.raiseFault (.unwrittenRead .numWindowGroups)) := by
  simp only [fwdInit, hg, need_none, Micro.andThen_ended]

theorem fwdInit_needs_bands (hg : s.numWindowGroups = some groups) (hb : s.maxSfb = none) :
    fwdInit s = .ended (s.raiseFault (.unwrittenRead .maxSfb)) := by
  simp only [fwdInit, hg, hb, need_some, need_none, Micro.andThen_done, Micro.andThen_ended]

/-- Ranges that do not fit the table memory (R117, decision D5). -/
theorem fwdInit_refused (hg : s.numWindowGroups = some groups) (hb : s.maxSfb = some bands)
    (hx : s.cfg.maxGroups < groups.toNat ∨ s.cfg.maxSfb < bands.toNat) :
    fwdInit s = .ended (s.refuse .indexRange) := by
  simp only [fwdInit, hg, hb, need_some, Micro.andThen_done, if_pos hx]

theorem fwdInit_needs_gain (hg : s.numWindowGroups = some groups) (hb : s.maxSfb = some bands)
    (hx : ¬ (s.cfg.maxGroups < groups.toNat ∨ s.cfg.maxSfb < bands.toNat)) (hgain : s.globalGain = none) :
    fwdInit s = .ended (({ s with mem := { s.mem with scaleFactors := [] } } : State).raiseFault
      (.unwrittenRead .globalGain)) := by
  simp only [fwdInit, hg, hb, hgain, need_some, need_none, Micro.andThen_done, Micro.andThen_ended,
    if_neg hx]

theorem fwdInit_done {gain : Int} (hg : s.numWindowGroups = some groups) (hb : s.maxSfb = some bands)
    (hx : ¬ (s.cfg.maxGroups < groups.toNat ∨ s.cfg.maxSfb < bands.toNat))
    (hgain : s.globalGain = some gain) :
    fwdInit s = .done () { s with
      mem := { s.mem with scaleFactors := [] }
      scaleFactor := some gain
      isPosition := some 0
      noiseEnergy := some (gain - 90)
      noisePcmFlag := some true
      decState := some .normal
      pc := some ⟨0, 0⟩ } := by
  simp only [fwdInit, hg, hb, hgain, need_some, Micro.andThen_done, if_neg hx, noiseOffset]

end

/-- Settles O25: the reads and the range check stand before the writes. -/
theorem fwdInitStartsTheRun : Obligations.FwdInitStartsTheRun := by
  intro s
  have run : ∀ {m : Micro Unit}, fwdInit s = m → exec .fwdInit s = .next m.state := by
    rintro _ rfl
    rfl
  refine ⟨fun hg => run (fwdInit_needs_groups hg),
    fun groups hg => ⟨fun hb => run (fwdInit_needs_bands hg hb), fun bands hb => ⟨?_, ?_⟩⟩⟩
  · intro hgroups hbands
    have hfit : ¬ (s.cfg.maxGroups < groups.toNat ∨ s.cfg.maxSfb < bands.toNat) := by omega
    exact ⟨fun gain hgain => run (fwdInit_done hg hb hfit hgain),
      fun hgain => ⟨_, run (fwdInit_needs_gain hg hb hfit hgain), rfl⟩⟩
  · exact fun hx => run (fwdInit_refused hg hb hx)

end Sys2Proof.Machine
end

/-! ## Bit spaces, byte buffers and cursors (R40 to R50) -/

section
namespace Sys2Proof

/-! ### Bit strings, position by position -/

/-- R7: the bits of a number, the most significant at position 0. -/
theorem getElem_bitsOf (n v k : Nat) (h : k < (bitsOf n v).length) :
    (bitsOf n v)[k] = v.testBit (n - 1 - k) := by
  induction n generalizing k with
  | zero => simp [bitsOf] at h
  | succ n ih =>
    cases k with
    | zero => rfl
    | succ k =>
      have hk : k < (bitsOf n v).length := by simpa using h
      have hi : n + 1 - 1 - (k + 1) = n - 1 - k := by omega
      simpa only [bitsOf, List.getElem_cons_succ, hi] using ih k hk

/-- R7: the bit of a value at the weight of position `k` is the bit that stands there. -/
theorem testBit_bitsVal {b : Bits} {k : Nat} (h : k < b.length) :
    (bitsVal b).testBit (b.length - 1 - k) = b[k] := by
  rw [← getElem_bitsOf b.length (bitsVal b) k (by simpa using h)]
  simp only [bitsOf_bitsVal]

/-- R7: a value is the sum of its bits' weights, the first bit with the greatest. -/
theorem bitsVal_eq_sum (b : Bits) :
    bitsVal b = ∑ k ∈ Finset.range b.length, (b.getD k false).toNat * 2 ^ (b.length - 1 - k) := by
  induction b with
  | nil => rfl
  | cons x b ih =>
    rw [bitsVal_cons, ih, List.length_cons, Finset.sum_range_succ', add_comm]
    congr 1
    refine Finset.sum_congr rfl fun k _ => ?_
    rw [List.getD_cons_succ, show b.length + 1 - 1 - (k + 1) = b.length - 1 - k by omega]

end Sys2Proof

namespace Sys2Proof.Machine

/-! ### Reads of a bit space -/

/-- The `n` bits from address `a` are there. -/
theorem length_window {buf : Bits} {a n : Nat} (h : a + n ≤ buf.length) :
    ((buf.drop a).take n).length = n := by
  simp only [List.length_take, List.length_drop]
  omega

theorem getD_window {buf : Bits} {a n k : Nat} (hk : k < n) :
    ((buf.drop a).take n).getD k false = buf.getD (a + k) false := by
  simp [List.getD_eq_getElem?_getD, hk]

theorem memRead_lt {buf : Bits} {a n : Nat} (h : a + n ≤ buf.length) : memRead buf a n < 2 ^ n := by
  simpa only [memRead, length_window h] using bitsVal_lt ((buf.drop a).take n)

/-- R40, R41: a read of `m + n` bits is the read of the first `m`, then that of the next `n`. -/
theorem memRead_add {buf : Bits} {a m n : Nat} (h : a + (m + n) ≤ buf.length) :
    memRead buf a (m + n) = memRead buf a m * 2 ^ n + memRead buf (a + m) n := by
  have hn : ((buf.drop (a + m)).take n).length = n := length_window (by omega)
  simp only [memRead]
  rw [List.take_add, List.drop_drop, bitsVal_append, hn]

/-- Settles O1: the value of the bits read is the sum of their weights. -/
theorem memReadIsMsbFirst : Obligations.MemReadIsMsbFirst := by
  intro buf a n h
  rw [memRead, bitsVal_eq_sum, length_window h]
  exact Finset.sum_congr rfl fun k hk => by rw [getD_window (Finset.mem_range.1 hk)]

/-! ### Byte buffers -/

@[simp] theorem length_bitsOfBytes (bytes : List Byte) (len : Nat) :
    (bitsOfBytes bytes len).length = len := by
  simp [bitsOfBytes]

theorem getElem_bitsOfBytes (bytes : List Byte) (len k : Nat) (h : k < (bitsOfBytes bytes len).length) :
    (bitsOfBytes bytes len)[k] = bitOfBytes bytes k := by
  simp [bitsOfBytes]

@[simp] theorem length_bytesOfBits (b : Bits) : (bytesOfBits b).length = (b.length + 7) / 8 := by
  simp [bytesOfBits]

/-- R41: the bits of byte `q` stand at the addresses `8 * q` to `8 * q + 7`, most significant first. -/
theorem bitOfBytes_in_byte (bytes : List Byte) (q : Nat) {r : Nat} (hr : r < 8) :
    bitOfBytes bytes (8 * q + r) = (bytes.getD q 0#8).toNat.testBit (7 - r) := by
  have hq : (8 * q + r) / 8 = q := by omega
  have hr' : (8 * q + r) % 8 = r := by omega
  rw [bitOfBytes, hq, hr', BitVec.testBit_toNat]

/-- R41: the eight bits at a byte-aligned address are the bits of the byte. -/
theorem byte_window (bytes : List Byte) {len q : Nat} (h : 8 * q + 8 ≤ len) :
    ((bitsOfBytes bytes len).drop (8 * q)).take 8 = bitsOf 8 (bytes.getD q 0#8).toNat := by
  refine List.ext_getElem (by simp; omega) fun r _ hr => ?_
  have hr8 : r < 8 := by simpa using hr
  rw [List.getElem_take, List.getElem_drop, getElem_bitsOfBytes, getElem_bitsOf,
    bitOfBytes_in_byte bytes q hr8]

/-- The eight bits that are packed into byte `q`: those of the bit string, then padding (R49). -/
def octet (b : Bits) (q : Nat) : Bits := (List.range 8).map fun r => b.getD (8 * q + r) false

theorem length_octet (b : Bits) (q : Nat) : (octet b q).length = 8 := by
  simp [octet]

theorem getElem_octet (b : Bits) (q r : Nat) (h : r < (octet b q).length) :
    (octet b q)[r] = b.getD (8 * q + r) false := by
  simp [octet]

theorem getD_bytesOfBits {b : Bits} {q : Nat} (h : q < (b.length + 7) / 8) :
    (bytesOfBits b).getD q 0#8 = BitVec.ofNat 8 (bitsVal (octet b q)) := by
  rw [List.getD_eq_getElem _ _ (by simpa using h)]
  simp [bytesOfBits, octet]

/-- R41, R49: packing puts bit `k` of a bit string at bit address `k`. -/
theorem bitOfBytes_bytesOfBits {b : Bits} {k : Nat} (h : k < b.length) :
    bitOfBytes (bytesOfBits b) k = b[k] := by
  have hq : k / 8 < (b.length + 7) / 8 := by omega
  have hr : k % 8 < (octet b (k / 8)).length := by rw [length_octet]; omega
  have hlt : 7 - k % 8 < 8 := by omega
  have hbit := testBit_bitsVal hr
  rw [length_octet, getElem_octet, Nat.div_add_mod, List.getD_eq_getElem _ _ h] at hbit
  rw [bitOfBytes, getD_bytesOfBits hq, BitVec.getLsbD_ofNat, decide_eq_true hlt, Bool.true_and, hbit]

/-- Settles O2: addresses, whole bytes, and packing, bit by bit. -/
theorem byteBufferBitOrder : Obligations.ByteBufferBitOrder := by
  refine ⟨fun bytes len k hk _ => ?_, fun bytes len q hq _ => ?_, fun b => ⟨?_, length_bytesOfBits b⟩⟩
  · rw [List.getD_eq_getElem _ _ (by simpa using hk), getElem_bitsOfBytes]
    rfl
  · rw [memRead, byte_window bytes hq, bitsVal_bitsOf, Nat.mod_eq_of_lt (BitVec.isLt _)]
  · refine List.ext_getElem (length_bitsOfBytes _ _) fun k _ hk => ?_
    rw [getElem_bitsOfBytes, bitOfBytes_bytesOfBits hk]

/-! ### Cursors -/

/-- Settles O3: both reads lie inside the buffer, and the windows they read join. -/
theorem successiveReadsConcatenate : Obligations.SuccessiveReadsConcatenate := by
  intro p c m n h
  have h₁ : c.pos + m ≤ c.len := by omega
  have h₂ : c.pos + m + n ≤ c.len := by omega
  refine ⟨_, _, _, _, Cursor.read_inside p c m h₁, Cursor.read_inside p _ n h₂, memRead_lt h₂, ?_, ?_⟩
  · rw [Cursor.read_inside p c (m + n) h, memRead_add h, Nat.add_assoc]
  · rw [Nat.add_assoc]

/-- R45: a read of no bits, wherever the cursor stands. -/
theorem Cursor.read_zero (p : OverrunPolicy) (c : Cursor) : c.read p 0 = some (0, c) := by
  simp [Cursor.read, memRead, bitsVal]

/-- Settles O4: no bits are always there, and a longer read past the end asks for bits that are not. -/
theorem zeroBitReadNeverOverruns : Obligations.ZeroBitReadNeverOverruns :=
  fun p c n => ⟨Cursor.read_zero p c, fun hn h => Cursor.read_overrun c n hn.ne' h⟩

/-- Settles O5: the copy is the window of the next `L` bits, with its own position 0. -/
theorem carveCopiesAndRealigns : Obligations.CarveCopiesAndRealigns := by
  intro p c L h
  have hlen := length_window (buf := c.buf) h
  refine ⟨_, Cursor.carve_inside p c L h, rfl, hlen, fun k hk => getD_window hk, fun n hn => ?_⟩
  refine Cursor.read_overrun _ n (by omega) ?_
  simpa only [Cursor.len, hlen, Nat.zero_add] using hn

end Sys2Proof.Machine
end

/-! ## Short walks, and the element a band operation writes (R50, R53, R112) -/

section
namespace Sys2Proof.Machine

open Sys2Proof.Claims

/-- A sub-cursor that was never carved stays absent (R50). -/
theorem State.moveSub_sub_of_none {s : State} {x : SubId} (c : Cursor) (h : s.sub x = none) :
    (s.moveSub x c).sub x = none := by
  cases x with
  | sf => exact congrArg (Option.map fun _ => c) h
  | esc => exact congrArg (Option.map fun _ => c) h

/-- Settles O22: the walk ends with the mark, moves its own cursor only, and writes no value. -/
theorem walkShortOfBitsFaults : Obligations.WalkShortOfBitsFaults := by
  intro s x hwf hp hshort
  obtain ⟨w, c, hwalk⟩ := walk_short hwf hp hshort
  have hnone := State.moveSub_sub_of_none (s := s) (x := x) c
  cases x with
  | sf => exact ⟨_, congrArg Micro.outcome hwalk, rfl, rfl, rfl, hnone⟩
  | esc => exact ⟨_, congrArg Micro.outcome hwalk, rfl, rfl, rfl, hnone⟩

/-- The band pointer stays, and an element it does not point at keeps its value. -/
def KeepsElement (g sfb : Nat) (s t : State) : Prop :=
  t.pc = s.pc ∧ (s.pc ≠ some ⟨g, sfb⟩ → element t g sfb = element s g sfb)

theorem frameRel_keepsElement (g sfb : Nat) : FrameRel (KeepsElement g sfb) where
  refl _ := ⟨rfl, fun _ => rfl⟩
  trans := by
    rintro a b c ⟨hpc₁, he₁⟩ ⟨hpc₂, he₂⟩
    exact ⟨hpc₂.trans hpc₁, fun h => (he₂ (hpc₁ ▸ h)).trans (he₁ h)⟩

theorem HuffFrame.keepsElement {s t : State} (g sfb : Nat) (h : HuffFrame s t) :
    KeepsElement g sfb s t := by
  obtain ⟨a, b, w, v, d, rfl, -, -⟩ := h
  exact ⟨rfl, fun _ => rfl⟩

/-- R53: the only write of a band operation to the output table is the one at the band pointer. -/
theorem BandEdit.keepsElement {s t : State} (g sfb : Nat) (h : BandEdit s t) :
    KeepsElement g sfb s t := by
  cases h with
  | lookup h _ => exact h.keepsElement g sfb
  | overrun h _ => exact h.keepsElement g sfb
  | @write p hp _ v =>
    refine ⟨rfl, fun hne => cellRead_cellWrite_other p.g p.sfb v _ g sfb fun heq => hne ?_⟩
    obtain ⟨rfl, rfl⟩ := Prod.mk.inj heq
    exact hp
  | _ => exact ⟨rfl, fun _ => rfl⟩

/-- Settles O35: a band operation is a chain of writes, and each keeps every other element. -/
theorem bandOpsWriteOnlyTheirElement : Obligations.BandOpsWriteOnlyTheirElement := by
  intro i s t g sfb hi h
  exact ((frameRel_keepsElement g sfb).of_chain (fun _ _ => BandEdit.keepsElement g sfb)
    (exec_bandOp_edits hi h)).2

end Sys2Proof.Machine
end

/-! ## Header fields at the bits of `main` (R42, R44, R64 to R67, R85 to R94) -/

section
namespace Sys2Proof.Machine

open Sys2Proof.Claims

/-! ### Reads of the bits that stand at `main` -/

/-- Past the bits `b`, the rest stands at the cursor. -/
theorem cursorAt_append (pre b rest : Bits) :
    cursorAt pre (b ++ rest) b.length = cursorAt (pre ++ b) rest 0 := by
  simp [cursorAt]

theorem atBits_iff (s : State) (pre b post : Bits) :
    AtBits s pre b post ↔ s.main = some (cursorAt pre (b ++ post) 0) := by
  simp [AtBits, cursorAt]

theorem past_eq (s : State) (pre b post : Bits) :
    past s pre b post = { s with main := some (cursorAt (pre ++ b) post 0) } := by
  simp [past, cursorAt]

section
variable {s : State} {pre rest : Bits}

/-- R42: a read of the bits `b` gives their value. -/
theorem readMain_at (b : Bits) (h : s.main = some (cursorAt pre (b ++ rest) 0)) :
    readMain b.length s = .done (bitsVal b) { s with main := some (cursorAt (pre ++ b) rest 0) } := by
  have hread := read_cursorAt s.cfg.overrunPolicy pre (b ++ rest) (Nat.zero_le b.length) (by simp)
  rw [Nat.sub_zero, List.drop_zero, List.take_left, cursorAt_append] at hread
  simp only [readMain, h, need_some, Micro.andThen_done, hread]

/-- R42: a read of the `n` bits of a number that fits them. -/
theorem readMain_bitsOf {n v : Nat} (hv : v < 2 ^ n)
    (h : s.main = some (cursorAt pre (bitsOf n v ++ rest) 0)) :
    readMain n s = .done v { s with main := some (cursorAt (pre ++ bitsOf n v) rest 0) } := by
  simpa only [bitsOf_length, bitsVal_bitsOf, Nat.mod_eq_of_lt hv] using readMain_at (bitsOf n v) h

/-- R44: a read of one bit. -/
theorem readMainBit_at {b : Bool} (h : s.main = some (cursorAt pre ([b] ++ rest) 0)) :
    readMainBit s = .done b { s with main := some (cursorAt (pre ++ [b]) rest 0) } := by
  have hbit : decide (bitsVal [b] = 1) = b := by cases b <;> rfl
  have hread : readMain 1 s = _ := readMain_at [b] h
  rw [readMainBit, hread, Micro.andThen_done, hbit]

end

/-- An operation that begins with a read of `n` bits faults when they are not there (R43). -/
theorem faultsWhenShort_of_readMain {α : Type} {i : Instr} {s : State} {n : Nat}
    {f : Nat → State → Micro α} (hn : n ≠ 0) (h : exec i s = ((readMain n s).andThen f).outcome) :
    FaultsWhenShort i s n := by
  rintro ⟨c, hm, hc⟩ hp
  rw [h]
  exact outcome_andThen_ended (readMain_overrun n s c hm hn hc hp) f

/-! ### One field -/

/-- At the bits `b` the operation completes: it makes `write` of the state, and moves `main` past them. -/
def ReadsAs (op : State → Micro Unit) (b : Bits) (write : State → State) (s : State) : Prop :=
  ∀ pre rest, s.main = some (cursorAt pre (b ++ rest) 0) →
    op s = .done () { write s with main := some (cursorAt (pre ++ b) rest 0) }

theorem ReadsAs.atField {op : State → Micro Unit} {b : Bits} {write : State → State} {f : HdrStep}
    {s : State} (h : ReadsAs op b write { s with phase := .hdr f }) :
    ReadsAs (atField f op) b (fun s => write { s with phase := .hdr f }) s :=
  h

/-- A field that a condition may leave out, with its bits (R65, R85). -/
theorem ReadsAs.onlyIf {present : Bool} {op : State → Micro Unit} {b : Bits} {write : State → State}
    {s : State} (ht : present = true → ReadsAs op b write s) (hf : present = false → write s = s) :
    ReadsAs (onlyIf present op) (if present then b else []) write s := by
  cases present with
  | true => exact ht rfl
  | false =>
    intro pre rest hm
    have hm : s.main = some (cursorAt (pre ++ []) rest 0) := by rw [List.append_nil]; exact hm
    have hsame : ({ write s with main := some (cursorAt (pre ++ []) rest 0) } : State) = s := by
      rw [hf rfl, ← hm]
    exact congrArg (Micro.done ()) hsame.symm

/-- What follows a field runs on the state that the field leaves. -/
theorem ReadsAs.andThen {op : State → Micro Unit} {b : Bits} {write : State → State} {s : State}
    {pre rest : Bits} {β : Type} {f : Unit → State → Micro β} {m : Micro β} (h : ReadsAs op b write s)
    (hm : s.main = some (cursorAt pre (b ++ rest) 0))
    (hf : f () { write s with main := some (cursorAt (pre ++ b) rest 0) } = m) :
    (op s).andThen f = m := by
  rw [h pre rest hm, Micro.andThen_done, hf]

theorem hdrSfc_readsAs (b : Bool) (s : State) :
    ReadsAs hdrSfc [b] (fun s => { s with sfConcealment := some b }) s := by
  intro pre rest hm
  rw [hdrSfc, readMainBit_at hm, Micro.andThen_done]

theorem hdrRgg_readsAs (g : BitVec 8) (s : State) :
    ReadsAs hdrRgg (bitsOf 8 g.toNat) (fun s => { s with revGlobalGain := some g }) s := by
  intro pre rest hm
  rw [hdrRgg, readMain_bitsOf g.isLt hm, Micro.andThen_done, BitVec.ofNat_toNat, BitVec.setWidth_eq]

theorem hdrLenSf_readsAs {w : Nat} {len : BitVec 11} (h : len.toNat < 2 ^ w) (s : State) :
    ReadsAs (hdrLenSf w) (bitsOf w len.toNat) (fun s => { s with lengthOfRvlcSf := some len }) s := by
  intro pre rest hm
  rw [hdrLenSf, readMain_bitsOf h hm, Micro.andThen_done, BitVec.ofNat_toNat, BitVec.setWidth_eq]

theorem hdrEscPresent_readsAs (b : Bool) (s : State) :
    ReadsAs hdrEscPresent [b] (fun s => { s with sfEscapesPresent := some b }) s := by
  intro pre rest hm
  rw [hdrEscPresent, readMainBit_at hm, Micro.andThen_done]

theorem hdrLenEsc_readsAs (n : BitVec 8) (s : State) :
    ReadsAs hdrLenEsc (bitsOf 8 n.toNat) (fun s => { s with lengthOfRvlcEscapes := some n }) s := by
  intro pre rest hm
  rw [hdrLenEsc, readMain_bitsOf n.isLt hm, Micro.andThen_done, BitVec.ofNat_toNat, BitVec.setWidth_eq]

theorem hdrNoiseLastpos_readsAs (n : BitVec 9) (s : State) :
    ReadsAs hdrNoiseLastpos (bitsOf 9 n.toNat) (fun s => { s with dpcmNoiseLastPosition := some n }) s := by
  intro pre rest hm
  rw [hdrNoiseLastpos, readMain_bitsOf n.isLt hm, Micro.andThen_done, BitVec.ofNat_toNat,
    BitVec.setWidth_eq]

/-- R67, R89: the literal is stored before the length is tested. -/
theorem hdrNoiseNrg_at {s : State} {n : BitVec 9} {len : BitVec 11} {pre rest : Bits}
    (hm : s.main = some (cursorAt pre (bitsOf 9 n.toNat ++ rest) 0)) (hl : s.lengthOfRvlcSf = some len) :
    hdrNoiseNrg s = if len.toNat < 9 then
        .ended { s with
          main := some (cursorAt (pre ++ bitsOf 9 n.toNat) rest 0), dpcmNoiseNrg := some n
          refused := some .lenSfUnderflow }
      else .done () { s with
        main := some (cursorAt (pre ++ bitsOf 9 n.toNat) rest 0), dpcmNoiseNrg := some n
        lengthOfRvlcSf := some (BitVec.ofNat 11 (len.toNat - 9)) } := by
  rw [hdrNoiseNrg, noiseBits, readMain_bitsOf n.isLt hm, Micro.andThen_done, BitVec.ofNat_toNat,
    BitVec.setWidth_eq]
  simp only [hl, need_some, Micro.andThen_done, State.refuse]

/-- R67: the length after the header; with noise used the 9 bits of the literal are taken off it. -/
def adjustedLength (noise : Bool) (len : BitVec 11) : BitVec 11 :=
  if noise then BitVec.ofNat 11 (len.toNat - 9) else len

theorem toNat_adjustedLength (noise : Bool) (len : BitVec 11) :
    (adjustedLength noise len).toNat = len.toNat - (if noise then 9 else 0) := by
  have hlt := len.isLt
  cases noise with
  | true => exact (BitVec.toNat_ofNat _ _).trans (Nat.mod_eq_of_lt (by omega))
  | false => rfl

theorem hdrNoiseNrg_readsAs (n : BitVec 9) {len : BitVec 11} {s : State} (hl : s.lengthOfRvlcSf = some len)
    (h : 9 ≤ len.toNat) :
    ReadsAs hdrNoiseNrg (bitsOf 9 n.toNat) (fun s => { s with
      dpcmNoiseNrg := some n, lengthOfRvlcSf := some (adjustedLength true len) }) s := by
  intro pre rest hm
  rw [hdrNoiseNrg_at hm hl, if_neg (Nat.not_lt.2 h)]
  rfl

/-- Settles O9: the literal is read and stored, then the length decides. -/
theorem hdrNoiseNrgAdjustsLength : Obligations.HdrNoiseNrgAdjustsLength := by
  refine fun s => ⟨faultsWhenShort_of_readMain (by decide) rfl, fun n len pre post hat hl => ?_⟩
  have hend := hdrNoiseNrg_at ((atBits_iff s pre _ post).1 hat) hl
  have run : ∀ {m : Micro Unit}, hdrNoiseNrg s = m → exec .hdrNoiseNrg s = .next m.state := by
    rintro _ rfl
    rfl
  rw [past_eq]
  refine ⟨fun h => ⟨_, toNat_adjustedLength true len, ?_⟩, fun h => ?_⟩
  · exact run (hend.trans (if_neg (Nat.not_lt.2 h)))
  · exact run (hend.trans (if_pos h))

/-! ### The whole record -/

/-- Settles O14: the lengths of the fields add up, and each condition adds its own. -/
theorem headerRecordLength : Obligations.HeaderRecordLength := by
  intro short noise h
  have hlen : (encodeHeader short noise h).length =
      1 + 8 + (if short then 11 else 9) + (if noise then 9 else 0) + 1 +
        (if h.sfEscapesPresent then 8 else 0) + (if noise then 9 else 0) := by
    simp only [encodeHeader, List.length_append, List.length_singleton, apply_ite List.length,
      bitsOf_length, List.length_nil]
  refine ⟨hlen, ?_⟩
  rw [hlen]
  split_ifs <;> omega

/-! ### The parse of a record -/

section
variable {s : State} {noise : Bool}

theorem parseLenSf_readsAs {short : Bool} {len : BitVec 11} (he : s.isEightShort = some short)
    (h : short = false → len.toNat < 512) :
    ReadsAs parseLenSf (bitsOf (if short then 11 else 9) len.toNat)
      (fun s => { s with lengthOfRvlcSf := some len }) s := by
  have hlt : len.toNat < 2 ^ (if short then 11 else 9) := by
    cases short with
    | true => exact len.isLt
    | false => exact h rfl
  intro pre rest hm
  rw [parseLenSf_eq he]
  exact hdrLenSf_readsAs hlt s pre rest hm

/-- The noise literal, where noise is used (R67, R89). -/
theorem optNoiseNrg_readsAs (n : BitVec 9) {len : BitVec 11} (hl : s.lengthOfRvlcSf = some len)
    (h : noise = true → 9 ≤ len.toNat) :
    ReadsAs (onlyIf noise (atField .noiseNrg hdrNoiseNrg)) (if noise then bitsOf 9 n.toNat else [])
      (fun s => { s with
        phase := if noise then .hdr .noiseNrg else s.phase
        dpcmNoiseNrg := if noise then some n else s.dpcmNoiseNrg
        lengthOfRvlcSf := some (adjustedLength noise len) }) s := by
  refine ReadsAs.onlyIf ?_ ?_
  · rintro rfl
    exact ReadsAs.atField (hdrNoiseNrg_readsAs n hl (h rfl))
  · rintro rfl
    simp [adjustedLength, ← hl]

/-- The escape length, where escapes are present (R91). -/
theorem optLenEsc_readsAs (escapes : Bool) (n : BitVec 8) :
    ReadsAs (onlyIf escapes (atField .lenEsc hdrLenEsc)) (if escapes then bitsOf 8 n.toNat else [])
      (fun s => { s with
        phase := if escapes then .hdr .lenEsc else s.phase
        lengthOfRvlcEscapes := if escapes then some n else s.lengthOfRvlcEscapes }) s := by
  refine ReadsAs.onlyIf ?_ ?_
  · rintro rfl
    exact ReadsAs.atField (hdrLenEsc_readsAs n _)
  · rintro rfl
    rfl

/-- The last noise position, where noise is used (R92). -/
theorem optNoiseLastpos_readsAs (n : BitVec 9) :
    ReadsAs (onlyIf noise (atField .noiseLastpos hdrNoiseLastpos))
      (if noise then bitsOf 9 n.toNat else [])
      (fun s => { s with
        phase := if noise then .hdr .noiseLastpos else s.phase
        dpcmNoiseLastPosition := if noise then some n else s.dpcmNoiseLastPosition }) s := by
  refine ReadsAs.onlyIf ?_ ?_
  · rintro rfl
    exact ReadsAs.atField (hdrNoiseLastpos_readsAs n _)
  · rintro rfl
    rfl

/-- `s` with the header registers holding the fields of a record (R64, R67). -/
def withFields (s : State) (noise : Bool) (h : HeaderFields) : State := { s with
  sfConcealment := some h.sfConcealment
  revGlobalGain := some h.revGlobalGain
  lengthOfRvlcSf := some (adjustedLength noise h.rawLength)
  dpcmNoiseNrg := if noise then some h.dpcmNoiseNrg else s.dpcmNoiseNrg
  sfEscapesPresent := some h.sfEscapesPresent
  lengthOfRvlcEscapes := if h.sfEscapesPresent then some h.lengthOfRvlcEscapes else s.lengthOfRvlcEscapes
  dpcmNoiseLastPosition := if noise then some h.dpcmNoiseLastPosition else s.dpcmNoiseLastPosition }

/-- The field at which the parse of a record ends (R85). -/
def lastField (noise escapes : Bool) : HdrStep :=
  if noise then .noiseLastpos else if escapes then .lenEsc else .escPresent

/-- R64, R85: the parse reads the fields in the order in which the record holds them. -/
theorem hdrParse_encodeHeader {short : Bool} {h : HeaderFields} {pre post : Bits}
    (he : s.isEightShort = some short) (hn : s.noiseUsed = some noise)
    (hshort : short = false → h.rawLength.toNat < 512) (hnoise : noise = true → 9 ≤ h.rawLength.toNat)
    (hm : s.main = some (cursorAt pre (encodeHeader short noise h ++ post) 0)) :
    hdrParse s = .done () { withFields s noise h with
      main := some (cursorAt (pre ++ encodeHeader short noise h) post 0)
      phase := .hdr (lastField noise h.sfEscapesPresent) } := by
  simp only [encodeHeader, List.append_assoc] at hm
  -- `dsimp only` makes the updates of each part one record again, or the last unification is too dear.
  refine ReadsAs.andThen (hdrSfc_readsAs h.sfConcealment _).atField hm ?_
  refine ReadsAs.andThen (hdrRgg_readsAs h.revGlobalGain _).atField rfl ?_
  refine ReadsAs.andThen (ReadsAs.atField (f := .lenSf) (op := parseLenSf)
    (parseLenSf_readsAs (by exact he) hshort)) rfl ?_
  dsimp only
  rw [hn, need_some, Micro.andThen_done]
  refine ReadsAs.andThen (optNoiseNrg_readsAs h.dpcmNoiseNrg rfl hnoise) rfl ?_
  refine ReadsAs.andThen (hdrEscPresent_readsAs h.sfEscapesPresent _).atField rfl ?_
  dsimp only
  rw [need_some, Micro.andThen_done]
  refine ReadsAs.andThen (optLenEsc_readsAs h.sfEscapesPresent h.lengthOfRvlcEscapes) rfl ?_
  dsimp only
  rw [need_some, Micro.andThen_done]
  refine (optNoiseLastpos_readsAs h.dpcmNoiseLastPosition _ _ rfl).trans ?_
  simp only [withFields, encodeHeader, lastField, List.append_assoc, apply_ite Phase.hdr, hn]

end

theorem exec_cmdHdr_of_done {s t : State} (hp : s.phase = .idle)
    (h : hdrParse { s with phase := .hdr .sfc } = .done () t) : exec .cmdHdr s = .next (endHdr t) := by
  simp only [exec, execCmdHdr, cmdHdr, if_pos hp, h, Micro.andThen_done, Micro.outcome_eq,
    Micro.state_done]

/-- Settles O15: the parse reads the record field by field, and the command returns to `IDLE`. -/
theorem cmdHdrInvertsHeaderEncoding : Obligations.CmdHdrInvertsHeaderEncoding := by
  intro s short noise h pre post hp he hn hshort hnoise hat
  refine ⟨adjustedLength noise h.rawLength, toNat_adjustedLength noise h.rawLength, ?_⟩
  have hparse := hdrParse_encodeHeader (s := { s with phase := .hdr .sfc }) he hn hshort hnoise
    ((atBits_iff s pre _ post).1 hat)
  rw [exec_cmdHdr_of_done hp hparse, past_eq]
  simp only [endHdr, withFields, hp, codeOk]

end Sys2Proof.Machine
end

/-! ## The decoder, and the operation a step runs (R69, R70, R83 to R85, R116 to R119, R136, R145) -/

section
namespace Sys2Proof

/-! ### The decoder, slot by slot -/

/-- The bits of a register's value read back as the value (R7). -/
theorem ofNat_bitsVal_bitsOf {n : Nat} (x : BitVec n) :
    BitVec.ofNat n (bitsVal (bitsOf n x.toNat)) = x := by
  rw [bitsVal_bitsOf, Nat.mod_eq_of_lt x.isLt, BitVec.ofNat_toNat, BitVec.setWidth_eq]

theorem decode_wrongWidth {sl : Slot} {w : Bits} (h : w.length ≠ sl.width) :
    decode sl w = .rejected (.wrongWidth sl.width) :=
  if_neg h

/-- An operation is only read from a word of its slot's width. -/
theorem length_of_decode_instr {sl : Slot} {w : Bits} {i : Instr} (h : decode sl w = .instr i) :
    w.length = sl.width := by
  by_contra hw
  rw [decode_wrongWidth hw] at h
  cases h

theorem decode_command (w : BitVec 1) : decode .command (bitsOf 1 w.toNat) = .instr (commandOp w) :=
  (if_pos (bitsOf_length _ _)).trans
    (congrArg (fun v => Decoded.instr (commandOp v)) (ofNat_bitsVal_bitsOf w))

theorem decode_header {f : HdrStep} {short : Bool} {w : Bits} (h : w.length = f.width short) :
    decode (.header f short) w = .instr (headerOp short f) :=
  if_pos h

theorem decode_normal (first : Bool) (cb : BitVec 4) :
    decode (.band .normal first) (bitsOf 4 cb.toNat) = .instr (codebookOp first cb) :=
  (if_pos (bitsOf_length _ _)).trans
    (congrArg (fun v => Decoded.instr (codebookOp first v)) (ofNat_bitsVal_bitsOf cb))

/-- R119, decision D16: whatever the word and the flag. -/
theorem decode_concealed (first : Bool) {w : Bits} (h : w.length = 4) :
    decode (.band .concealed first) w = .instr .bandConcealed :=
  if_pos h

theorem decode_aborted (c : AbortCode) (first : Bool) {w : Bits} (h : w.length = 4) :
    decode (.band (.aborted c) first) w = .rejected .runEnded :=
  if_pos h

theorem decode_sequenced (op : SeqOp) : decode (.sequenced op) [] = .instr op.instr := rfl

/-- R69, R70: SPECTRAL is the class of the codebooks 1 to 11. -/
theorem codebookOp_spectral (first : Bool) {cb : BitVec 4} (h : 1 ≤ cb.toNat ∧ cb.toNat ≤ 11) :
    codebookOp first cb = .bandSpectral cb := by
  have other : ∀ k : BitVec 4, k.toNat = 0 ∨ 11 < k.toNat → cb ≠ k := by
    rintro k hk rfl
    omega
  simp only [codebookOp, if_neg (other 0#4 (by decide)), if_neg (other 15#4 (by decide)),
    if_neg (other 14#4 (by decide)), if_neg (other 13#4 (by decide)), if_neg (other 12#4 (by decide))]

/-- R118: only the codebook of the NOISE bands looks at `noise_pcm_flag`. -/
theorem codebookOp_flag {cb : BitVec 4} (h : cb ≠ 13#4) (first : Bool) :
    codebookOp first cb = codebookOp true cb := by
  simp only [codebookOp, if_neg h]

/-- R64, R88: only the length field looks at `is_eight_short`. -/
theorem headerOp_short {f : HdrStep} (h : f ≠ .lenSf) (short : Bool) :
    headerOp short f = headerOp false f := by
  cases f with
  | lenSf => exact absurd rfl h
  | _ => rfl

theorem decode_encode {i : Instr} (h : i.wf = true) : decode i.slot (encode i) = .instr i := by
  cases i with
  | hdrSfc | hdrRgg | hdrLenSf9 | hdrLenSf11 | hdrNoiseNrg | hdrEscPresent | hdrLenEsc
  | hdrNoiseLastpos => exact decode_header rfl
  | carveSf | carveEsc | release | walkSf | walkEsc | huffSf | fwdInit => exact decode_sequenced _
  | bandConcealed => exact decode_concealed true rfl
  | bandZero => exact decode_normal true 0#4
  | bandIntensity => exact decode_normal true 15#4
  | bandIntensity2 => exact decode_normal true 14#4
  | bandNoisePcm => exact decode_normal true 13#4
  | bandNoiseDpcm => exact decode_normal false 13#4
  | bandBookscl => exact decode_normal true 12#4
  | bandSpectral cb =>
    exact (decode_normal true cb).trans
      (congrArg Decoded.instr (codebookOp_spectral true (of_decide_eq_true h)))
  | cmdHdr => exact decode_command 0#1
  | cmdDec => exact decode_command 1#1

/-- Settles O59: each operation's word is the word of its slot that selects it. -/
theorem decodeReadsEncodedOperation : Obligations.DecodeReadsEncodedOperation :=
  ⟨fun _ => decode_encode, fun _ _ _ => decode_header, fun _ _ => decode_wrongWidth⟩

/-- Settles O60: the words are the bits of the codebook values and commands of the two tables. -/
theorem tableWordsDecode : Obligations.TableWordsDecode :=
  ⟨decode_normal true 0#4, decode_normal true 15#4, decode_normal true 14#4, decode_normal true 13#4,
    decode_normal false 13#4, decode_normal true 12#4, decode_normal true 11#4,
    fun flag _ => decode_concealed flag, decode_command 0#1, decode_command 1#1⟩

end Sys2Proof

namespace Sys2Proof.Machine

open Sys2Proof.Claims

/-! ### The operation a step runs -/

theorem microStep_of_fetchOp {s : State} {i : Instr} (h : fetchOp s = .done i s) :
    microStep s = continueWith (exec i s) := by
  rw [microStep, h]

/-- R118: the operation at a band is the one its codebook word decodes to. -/
theorem fetchBand_eq {s : State} {d : DecState} {p : BandPtr} {cb : BitVec 4} {first : Bool} {i : Instr}
    (hd : s.decState = some d) (hp : s.pc = some p) (hcb : cellRead p.g p.sfb s.mem.sfbCb = some cb)
    (hf : s.noisePcmFlag = some first) (hi : decode (.band d first) (bitsOf 4 cb.toNat) = .instr i) :
    fetchBand s = .done i s := by
  cases d with
  | concealed =>
    obtain rfl := Decoded.instr.inj ((decode_concealed first (bitsOf_length _ _)).symm.trans hi)
    simp only [fetchBand, hd, need_some, Micro.andThen_done]
  | aborted c => cases (decode_aborted c first (bitsOf_length _ _)).symm.trans hi
  | normal =>
    obtain rfl := Decoded.instr.inj ((decode_normal first cb).symm.trans hi)
    simp only [fetchBand, readCodebook, hd, hp, hcb, hf, need_some, Micro.andThen_done, decode_normal,
      selected]
    split
    · rfl
    · next hne => rw [codebookOp_flag hne first]

/-- R85: the operation at a header field, whose width `is_eight_short` gives. -/
theorem fetchOp_header {s : State} {f : HdrStep} {short : Bool} (hp : s.phase = .hdr f)
    (he : s.isEightShort = some short) : fetchOp s = .done (headerOp short f) s := by
  cases f with
  | lenSf => simp only [fetchOp, hp, he, need_some, Micro.andThen_done]
  | _ => simp only [fetchOp, hp, headerOp]

/-- R145: a command issued whole, or in spite of R142, runs at once; a stepped one is begun. -/
theorem hostAct_command (w : BitVec 1) (how : Issue) (s : State) :
    hostAct (.command w how) s =
      if how = .stepped then .next (beginCommand (commandOp w) s) else exec (commandOp w) s := by
  cases how <;> rfl

/-- Settles O46: what the phase selects is what the decoder reads there. -/
theorem stepRunsDecodedOperation : Obligations.StepRunsDecodedOperation := by
  intro s i
  have runs : Quiet s → fetchOp s = .done i s → step s = continueWith (exec i s) := fun hq hf =>
    (step_quiet hq).trans (microStep_of_fetchOp hf)
  refine ⟨?_, ?_, ?_, ?_⟩
  · intro d p cb f hq hph hd hp hcb hf hi
    exact runs hq (by simp only [fetchOp, hph, fetchBand_eq hd hp hcb hf hi])
  · intro f short w hq hp he hi
    obtain rfl := Decoded.instr.inj ((decode_header (length_of_decode_instr hi)).symm.trans hi)
    exact runs hq (fetchOp_header hp he)
  · rintro hq (⟨hp, rfl⟩ | ⟨hp, rfl⟩ | ⟨hp, rfl⟩ | ⟨hp, rfl⟩) <;>
      exact runs hq (by simp only [fetchOp, hp, decode_sequenced, selected, SeqOp.instr])
  · intro w how rest hm hp hh hi
    obtain rfl := Decoded.instr.inj ((decode_command w).symm.trans hi)
    rw [step_idle_act hm hp hh, hostAct_command]
    exact ⟨fun hne => if_neg hne, fun heq => if_pos heq⟩

end Sys2Proof.Machine
end

/-! ## Completed walks, and the literal of the first NOISE band (R68, R105 to R109, R123) -/

section
namespace Sys2Proof.Machine

open Sys2Proof.Claims

/-- Settles O21: the walk completes with the code that the table finds in the bits. -/
theorem walkReturnsFirstMatchingEntry : Obligations.WalkReturnsFirstMatchingEntry := fun _ _ _ hwf =>
  ⟨fun hx hin => congrArg Micro.outcome (walk_done (x := .sf) hwf hx hin),
    fun hx hin => congrArg Micro.outcome (walk_done (x := .esc) hwf hx hin)⟩

/-- R123: the header literal is the operand. -/
theorem bandNoisePcm_done {s : State} {p : BandPtr} {old : Int} {raw : BitVec 9} (hat : AtElement s p)
    (ho : s.noiseEnergy = some old) (hr : s.dpcmNoiseNrg = some raw)
    (hfit : accFits s.cfg (old + noiseLiteralOf s.cfg.noiseLiteral raw) = true) :
    bandNoisePcm s = .done () (wrote { s with
      noisePcmFlag := some false
      noiseEnergy := some (old + noiseLiteralOf s.cfg.noiseLiteral raw) } p
      (old + noiseLiteralOf s.cfg.noiseLiteral raw)) := by
  obtain ⟨hp, hx⟩ := hat
  rw [bandNoisePcm]
  simp only [ho, hr, need_some, Micro.andThen_done, newBaseline, hfit, if_true]
  exact writeElement_done _ _ p hp hx

/-- R14, R123: the literal is read before anything but the flag is written. -/
theorem bandNoisePcm_unwritten {s : State} {old : Int} (ho : s.noiseEnergy = some old)
    (hr : s.dpcmNoiseNrg = none) :
    bandNoisePcm s = .ended (({ s with noisePcmFlag := some false } : State).raiseFault
      (.unwrittenRead .dpcmNoiseNrg)) := by
  simp only [bandNoisePcm, ho, hr, need_some, need_none, Micro.andThen_done, Micro.andThen_ended]

/-- R8, R68: the two's-complement reading of the 9 bits. -/
theorem noiseLiteralOf_twosComplement (raw : BitVec 9) :
    noiseLiteralOf .twosComplement raw =
      if raw.toNat < 256 then (raw.toNat : Int) else (raw.toNat : Int) - 512 := by
  rw [noiseLiteralOf, sext, BitVec.ofNat_toNat, BitVec.setWidth_eq, BitVec.toInt_eq_toNat_cond]
  split_ifs <;> omega

/-- R68: a tabulated reading lists a value for every literal. -/
theorem getElem?_tabulated {values : List Int} (h : values.length = 512) (raw : BitVec 9) :
    values[raw.toNat]? = some (noiseLiteralOf (.tabulated values) raw) := by
  have hlt : raw.toNat < values.length := by rw [h]; exact raw.isLt
  rw [noiseLiteralOf, List.getD_eq_getElem _ _ hlt, List.getElem?_eq_getElem hlt]

/-- Settles O28: the operand is the header's literal, read as the configuration says. -/
theorem firstNoiseBandTakesLiteral : Obligations.FirstNoiseBandTakesLiteral := by
  refine ⟨fun s p old raw hat ho hr hfit => ?_, fun s old ho hr => ?_, fun raw => ?_⟩
  · exact congrArg Micro.outcome (bandNoisePcm_done hat ho hr hfit)
  · exact ⟨_, congrArg Micro.outcome (bandNoisePcm_unwritten ho hr), rfl, rfl, rfl⟩
  · exact ⟨rfl, noiseLiteralOf_twosComplement raw, fun _ h => getElem?_tabulated h raw⟩

end Sys2Proof.Machine
end

/-! ## The header field operations, one by one, and the order of the steps (R85 to R92, R116, R139, R140) -/

section
namespace Sys2Proof.Machine

open Sys2Proof.Claims

/-! ### A raw length that cannot hold the noise literal (R89, R156) -/

/-- R85, R89: a refused noise literal ends the parse after its first three fields. -/
theorem hdrParse_ended_of_noiseNrg {s s₁ s₂ s₃ t : State} (h₁ : atField .sfc hdrSfc s = .done () s₁)
    (h₂ : atField .rgg hdrRgg s₁ = .done () s₂) (h₃ : atField .lenSf parseLenSf s₂ = .done () s₃)
    (hn : s₃.noiseUsed = some true) (h₄ : atField .noiseNrg hdrNoiseNrg s₃ = .ended t) :
    hdrParse s = .ended t := by
  rw [hdrParse, h₁, Micro.andThen_done, h₂, Micro.andThen_done]
  refine (congrArg (Micro.andThen · _) h₃).trans ?_
  rw [Micro.andThen_done, hn, need_some, Micro.andThen_done, onlyIf, if_pos rfl, h₄, Micro.andThen_ended]

/-- R81 (c), R89: the parse of a record whose raw length is below 9 ends at the noise literal, which it
has stored. -/
theorem hdrParse_shortNoiseLength {s : State} {short : Bool} {h : HeaderFields} {pre post : Bits}
    (he : s.isEightShort = some short) (hn : s.noiseUsed = some true) (hlen : h.rawLength.toNat < 9)
    (hm : s.main = some (cursorAt pre (encodeHeader short true h ++ post) 0)) :
    ∃ t, hdrParse s = .ended t ∧ t.refused = some .lenSfUnderflow ∧ t.result = s.result ∧
      t.hdrDone = s.hdrDone ∧ t.dpcmNoiseNrg = some h.dpcmNoiseNrg := by
  simp only [encodeHeader, List.append_assoc] at hm
  have hlt : short = false → h.rawLength.toNat < 512 := fun _ => by omega
  refine ⟨_, hdrParse_ended_of_noiseNrg ((hdrSfc_readsAs h.sfConcealment _).atField _ _ hm)
    ((hdrRgg_readsAs h.revGlobalGain _).atField _ _ rfl)
    (ReadsAs.atField (parseLenSf_readsAs (by exact he) hlt) _ _ rfl) hn
    ((hdrNoiseNrg_at rfl rfl).trans (if_pos hlen)), rfl, rfl, rfl, rfl⟩

/-- Settles O16: the parse ends at the noise literal, so the command does not. -/
theorem cmdHdrRefusesShortNoiseLength : Obligations.CmdHdrRefusesShortNoiseLength := by
  intro s short h pre post hp he hn hlen hat
  obtain ⟨t, hparse, ht⟩ := hdrParse_shortNoiseLength (s := { s with phase := .hdr .sfc }) he hn hlen
    ((atBits_iff s pre _ post).1 hat)
  exact ⟨t, exec_cmdHdr_of_ended hp hparse, ht⟩

/-! ### One field operation -/

/-- R86 to R92: an operation at the bits of its field writes the field and moves `main` past them. -/
theorem ReadsAs.exec_eq {op : State → Micro Unit} {b pre post : Bits} {write : State → State} {s : State}
    {i : Instr} (h : ReadsAs op b write s) (hi : exec i s = (op s).outcome) (hat : AtBits s pre b post) :
    exec i s = .next { write s with main := (past s pre b post).main } := by
  rw [hi, h pre post ((atBits_iff s pre b post).1 hat), past_eq]
  rfl

theorem Micro.andThen_assoc {α β γ : Type} (m : Micro α) (f : α → State → Micro β)
    (g : β → State → Micro γ) :
    (m.andThen f).andThen g = m.andThen fun a s => (f a s).andThen g := by
  cases m <;> rfl

/-- An operation that begins with a read of one bit faults when none is left (R43, R44). -/
theorem faultsWhenShort_of_readMainBit {α : Type} {i : Instr} {s : State} {f : Bool → State → Micro α}
    (h : exec i s = ((readMainBit s).andThen f).outcome) : FaultsWhenShort i s 1 :=
  faultsWhenShort_of_readMain one_ne_zero
    (h.trans (congrArg Micro.outcome (Micro.andThen_assoc (readMain 1 s) _ f)))

/-- Settles O6: one bit of `main` goes to `sf_concealment`. -/
theorem hdrSfcReadsConcealmentBit : Obligations.HdrSfcReadsConcealmentBit := fun s =>
  ⟨faultsWhenShort_of_readMainBit rfl, fun b _ _ hat => (hdrSfc_readsAs b s).exec_eq rfl hat⟩

/-- Settles O7: 8 bits of `main` go to `rev_global_gain`. -/
theorem hdrRggReadsGlobalGain : Obligations.HdrRggReadsGlobalGain := fun s =>
  ⟨faultsWhenShort_of_readMain (by decide) rfl, fun g _ _ hat => (hdrRgg_readsAs g s).exec_eq rfl hat⟩

/-- Settles O8: both operations are the length field, at the width of each. -/
theorem hdrLenSfReadsRawLength : Obligations.HdrLenSfReadsRawLength := fun s =>
  ⟨faultsWhenShort_of_readMain (by decide) rfl, faultsWhenShort_of_readMain (by decide) rfl,
    fun v _ _ => ⟨fun hv hat => (hdrLenSf_readsAs hv s).exec_eq rfl hat,
      fun hat => (hdrLenSf_readsAs v.isLt s).exec_eq rfl hat⟩⟩

/-- Settles O10: one bit of `main` goes to `sf_escapes_present`. -/
theorem hdrEscPresentReadsFlag : Obligations.HdrEscPresentReadsFlag := fun s =>
  ⟨faultsWhenShort_of_readMainBit rfl, fun b _ _ hat => (hdrEscPresent_readsAs b s).exec_eq rfl hat⟩

/-- Settles O11: 8 bits of `main` go to `length_of_rvlc_escapes`. -/
theorem hdrLenEscReadsEscapeLength : Obligations.HdrLenEscReadsEscapeLength := fun s =>
  ⟨faultsWhenShort_of_readMain (by decide) rfl,
    fun n _ _ hat => (hdrLenEsc_readsAs n s).exec_eq rfl hat⟩

/-- Settles O12: 9 bits of `main` go to `dpcm_noise_last_position`, with nothing taken off them. -/
theorem hdrNoiseLastposStoredRaw : Obligations.HdrNoiseLastposStoredRaw := fun s =>
  ⟨faultsWhenShort_of_readMain (by decide) rfl,
    fun n _ _ hat => (hdrNoiseLastpos_readsAs n s).exec_eq rfl hat⟩

/-! ### What follows an operation -/

section
variable {s : State}

theorem continueWith_unmarked (hm : s.marked = false) :
    continueWith (.next s) = .next (afterOp s).state := by
  rw [continueWith, hm]
  rfl

theorem afterOp_carveSf (hp : s.phase = .carve .sf) :
    afterOp s = .done () { s with phase := .carve .esc } := by
  simp only [afterOp, hp]

theorem afterOp_carveEsc (hp : s.phase = .carve .esc) :
    afterOp s = .done () { s with phase := .decode .init } := by
  simp only [afterOp, hp]

theorem afterOp_release (hp : s.phase = .release) : afterOp s = .done () { s with phase := .idle } := by
  simp only [afterOp, hp]

theorem afterOp_decodeInit (hp : s.phase = .decode .init) : afterOp s = toBandOrEnd s := by
  rw [afterOp, hp]

theorem afterOp_hdr {f : HdrStep} (hp : s.phase = .hdr f) : afterOp s = afterField f s := by
  rw [afterOp, hp]

/-- R85: noise decides whether the last field of the header is there. -/
theorem afterEscapes_eq {noise : Bool} (hn : s.noiseUsed = some noise) :
    afterEscapes s =
      .done () (if noise then { s with phase := .hdr .noiseLastpos } else endHdr s) := by
  simp only [afterEscapes, hn, need_some, Micro.andThen_done]
  cases noise <;> rfl

/-- R85: noise decides what follows the length field. -/
theorem afterField_lenSf {noise : Bool} (hn : s.noiseUsed = some noise) :
    afterField .lenSf s =
      .done () { s with phase := .hdr (if noise then .noiseNrg else .escPresent) } := by
  simp only [afterField, hn, need_some, Micro.andThen_done]
  cases noise <;> rfl

/-- R85: the flag decides whether the escape length is there. -/
theorem afterField_escPresent {noise present : Bool} (hn : s.noiseUsed = some noise)
    (he : s.sfEscapesPresent = some present) :
    afterField .escPresent s = .done () (if present then { s with phase := .hdr .lenEsc }
      else if noise then { s with phase := .hdr .noiseLastpos } else endHdr s) := by
  simp only [afterField, he, need_some, Micro.andThen_done, afterEscapes_eq hn]
  cases present <;> rfl

/-- R116, R129: the loop test of a run that stands at its first band. -/
theorem toBandOrEnd_first {groups : BitVec 4} {bands : BitVec 6} (hp : s.pc = some ⟨0, 0⟩)
    (hg : s.numWindowGroups = some groups) (hb : s.maxSfb = some bands) :
    toBandOrEnd s = .done () (if groups.toNat ≠ 0 ∧ bands.toNat ≠ 0 then { s with phase := .decode .band }
      else { s with pc := some ⟨groups.toNat, 0⟩, result := some codeOk, phase := .release }) := by
  rw [toBandOrEnd, loopTest_eq hp hg hb]
  by_cases hgroups : groups.toNat = 0
  · simp [hgroups, hp]
  · by_cases hbands : bands.toNat = 0
    · simp [hgroups, hbands, Nat.pos_of_ne_zero hgroups]
    · simp [hgroups, hbands, Nat.pos_of_ne_zero hgroups]

/-- R139, R145: a `CMD_HDR` issued in steps is begun at its first field. -/
theorem beginCommand_cmdHdr (hp : s.phase = .idle) :
    beginCommand .cmdHdr s = { s with phase := .hdr .sfc } := by
  simp only [beginCommand, hp]

/-- R140, R142: a `CMD_DEC` issued in steps is begun at its first carve, once a header has been parsed. -/
theorem beginCommand_cmdDec (hp : s.phase = .idle) :
    beginCommand .cmdDec s =
      if s.hdrDone then { s with phase := .carve .sf } else s.refuse .decodeBeforeHeader := by
  simp only [beginCommand, hp]

end

/-- Settles O50: what follows each operation, phase by phase. -/
theorem microOperationOrder : Obligations.MicroOperationOrder := by
  intro s noise present groups bands hm hn he hg hb next endOfHeader
  have follows {m : Micro Unit} (h : afterOp s = m) : continueWith (.next s) = .next m.state := by
    rw [continueWith_unmarked hm, h]
  have field {f : HdrStep} {m : Micro Unit} (hp : s.phase = .hdr f) (h : afterField f s = m) :
      continueWith (.next s) = .next m.state := follows ((afterOp_hdr hp).trans h)
  refine ⟨fun hp => ⟨beginCommand_cmdHdr hp, ?_, ?_⟩, ?_, ?_, ?_, ?_, ?_, ?_, ?_, ?_, ?_, ?_, ?_⟩
  · exact fun hd => (beginCommand_cmdDec hp).trans (if_pos hd)
  · exact fun hd => (beginCommand_cmdDec hp).trans (if_neg (Bool.eq_false_iff.1 hd))
  · exact fun hp => field hp rfl
  · exact fun hp => field hp rfl
  · exact fun hp => field hp (afterField_lenSf hn)
  · exact fun hp => field hp rfl
  · intro hp
    rw [field hp (afterField_escPresent hn he)]
    cases present <;> cases noise <;> rfl
  · intro hp
    rw [field hp (afterEscapes_eq hn)]
    cases noise <;> rfl
  · exact fun hp => field hp rfl
  · exact fun hp => follows (afterOp_carveSf hp)
  · exact fun hp => follows (afterOp_carveEsc hp)
  · intro hp hpc
    rw [follows ((afterOp_decodeInit hp).trans (toBandOrEnd_first hpc hg hb))]
    split <;> rfl
  · exact fun hp => follows (afterOp_release hp)

end Sys2Proof.Machine
end

/-! ## The Segment Carver, and the way out of a `CMD_DEC` (R46, R76, R96 to R101, R140, R173) -/

section
namespace Sys2Proof.Machine

open Sys2Proof.Claims

/-! ### Reads of a location -/

section
variable {α : Type} {r : Option α} {a : α}

/-- R14: a read of a location that holds a value. -/
theorem need_written (h : r = some a) (n : RegName) (s : State) : need r n s = .done a s := by
  rw [h, need_some]

/-- R14: a read of a location that holds none. -/
theorem need_unwritten (h : r = none) (n : RegName) (s : State) :
    need r n s = .ended (s.raiseFault (.unwrittenRead n)) := by
  rw [h, need_none]

end

/-! ### A carve of `main` -/

/-- R43, R46: a carve of `main` past the end under the default policy. -/
theorem carveMain_overrun {L : Nat} {s : State} {c : Cursor} (h : s.main = some c)
    (hc : c.len < c.pos + L) (hp : s.cfg.overrunPolicy = .fault) :
    carveMain L s = .ended (s.raiseFault (.cursorOverrun .main)) := by
  simp only [carveMain, h, need_some, Micro.andThen_done, hp, Cursor.carve_overrun c L hc]

/-- R46: a carve of the bits that stand at `main` gives a cursor over exactly these bits. -/
theorem carveMain_at {s : State} {pre seg post : Bits} (h : AtBits s pre seg post) :
    carveMain seg.length s = .done ⟨seg, 0⟩ (past s pre seg post) := by
  have hfits : pre.length + seg.length ≤ (pre ++ seg ++ post).length := by simp
  have hseg : ((pre ++ seg ++ post).drop pre.length).take seg.length = seg := by simp
  rw [carveMain_inside seg.length s _ h hfits, hseg]
  rfl

/-- An operation that begins with a carve of `n` bits faults when they are not there (R43). -/
theorem faultsWhenShort_of_carveMain {α : Type} {i : Instr} {s : State} {n : Nat}
    {f : Cursor → State → Micro α} (h : exec i s = ((carveMain n s).andThen f).outcome) :
    FaultsWhenShort i s n := by
  rintro ⟨c, hm, hc⟩ hp
  rw [h]
  exact outcome_andThen_ended (carveMain_overrun hm hc hp) f

/-- Where the bits are there, or the policy does not make up for them, a carve moves `main` by exactly
the asked length, or the bits were not there and the mark `fault` is set (R43, R47). -/
theorem carveMain_moves {L : Nat} {s : State} {c : Cursor} (hm : s.main = some c)
    (h : c.pos + L ≤ c.len ∨ s.cfg.overrunPolicy = .fault) :
    (carveMain L s).post (fun _ t => t = { s with main := some { c with pos := c.pos + L } })
      (fun t => t.fault ≠ none ∧ c.len < c.pos + L) := by
  by_cases hfits : c.pos + L ≤ c.len
  · rw [carveMain_inside L s c hm hfits]
    rfl
  · have hshort : c.len < c.pos + L := Nat.lt_of_not_le hfits
    rw [carveMain_overrun hm hshort (h.resolve_left hfits)]
    exact ⟨Option.some_ne_none _, hshort⟩

/-! ### The carver's operations, case by case -/

section
variable {s : State}

theorem carveSf_positive {len : BitVec 11} (hl : s.lengthOfRvlcSf = some len) (h : 0 < len.toNat) :
    carveSf s = (carveMain len.toNat s).andThen fun new s => .done () { s with sf := some new } := by
  rw [carveSf, need_written hl, Micro.andThen_done, if_pos h]

theorem carveSf_zero {len : BitVec 11} (hl : s.lengthOfRvlcSf = some len) (h : len.toNat = 0) :
    carveSf s = .done () { s with sf := none } := by
  rw [carveSf, need_written hl, Micro.andThen_done, if_neg h.not_gt]

theorem carveEsc_absent (hp : s.sfEscapesPresent = some false) :
    carveEsc s = .done () { s with esc := none } := by
  rw [carveEsc, need_written hp, Micro.andThen_done, if_neg Bool.false_ne_true]

theorem carveEsc_present (hp : s.sfEscapesPresent = some true) :
    carveEsc s = (need s.lengthOfRvlcEscapes .lengthOfRvlcEscapes s).andThen fun len s =>
      (carveMain len.toNat s).andThen fun new s => .done () { s with esc := some new } := by
  rw [carveEsc, need_written hp, Micro.andThen_done, if_pos rfl]

theorem carveEsc_carves {len : BitVec 8} (hp : s.sfEscapesPresent = some true)
    (hl : s.lengthOfRvlcEscapes = some len) :
    carveEsc s = (carveMain len.toNat s).andThen fun new s => .done () { s with esc := some new } := by
  rw [carveEsc_present hp, need_written hl, Micro.andThen_done]

end

/-- Settles O18: the length decides between no cursor and a carve of `main`, which faults when short. -/
theorem carveSfCarvesPositiveLength : Obligations.CarveSfCarvesPositiveLength := by
  refine fun s => ⟨fun hn => outcome_andThen_ended (need_unwritten hn _ s) _, fun len hl =>
    ⟨fun pre seg post hpos hlen hat => ?_, fun hz => congrArg Micro.outcome (carveSf_zero hl hz),
      fun hpos => faultsWhenShort_of_carveMain (congrArg Micro.outcome (carveSf_positive hl hpos))⟩⟩
  have hcarve : exec .carveSf s = _ := congrArg Micro.outcome (carveSf_positive hl hpos)
  rw [hcarve, ← hlen, carveMain_at hat]
  rfl

/-- Settles O19: the flag decides between no cursor and a carve of `main`, which faults when short. -/
theorem carveEscFollowsEscapesPresent : Obligations.CarveEscFollowsEscapesPresent := by
  refine fun s => ⟨fun hn => outcome_andThen_ended (need_unwritten hn _ s) _,
    fun hp => congrArg Micro.outcome (carveEsc_absent hp),
    fun hp hn => (congrArg Micro.outcome (carveEsc_present hp)).trans
      (outcome_andThen_ended (need_unwritten hn _ s) _), fun len hp hl => ?_⟩
  have hcarve : exec .carveEsc s = _ := congrArg Micro.outcome (carveEsc_carves hp hl)
  refine ⟨faultsWhenShort_of_carveMain hcarve, fun pre seg post hlen hat => ?_⟩
  rw [hcarve, ← hlen, carveMain_at hat]
  rfl

/-- Settles O20: the operation is the disposal of both sub-cursors. -/
theorem releaseDisposesBothCursors : Obligations.ReleaseDisposesBothCursors := fun _ => rfl

/-! ### The way out of a `CMD_DEC` -/

/-- R101, R140: an accepted `CMD_DEC` leaves through `RELEASE` and `IDLE`, however its body ends. -/
theorem exec_cmdDec_accepted {s : State} (hp : s.phase = .idle) (hd : s.hdrDone = true) :
    exec .cmdDec s = .next (decBody s).state.leaveDec := by
  change (cmdDec s).outcome = _
  rw [cmdDec, if_pos hp, if_pos hd]
  cases decBody s <;> rfl

/-- Settles O39: the way out releases and idles, and no write of the command reaches a header register. -/
theorem cmdDecReleasesOnEveryPath : Obligations.CmdDecReleasesOnEveryPath := by
  intro s hp hd
  have hedits : CommandEdits s (decBody s).state.leaveDec :=
    (Micro.within_state (decBody_edits s)).trans (leaveDec_edits _)
  have hregs := hedits.headerRegisters_eq
  simp only [headerRegisters, Prod.mk.injEq] at hregs
  obtain ⟨hsfc, hrgg, hlen, hnrg, hesc, hlenEsc, hlast, hdone⟩ := hregs
  exact ⟨_, exec_cmdDec_accepted hp hd, rfl, rfl, rfl, ⟨hsfc, hrgg, hlen, hnrg, hesc, hlenEsc, hlast⟩,
    hdone.trans hd⟩

/-! ### `main` along a `CMD_DEC` -/

/-- The same cursor stands at `main` (R37: only the parser and the carver move it). -/
def SameMain (s t : State) : Prop := t.main = s.main

theorem frameRel_sameMain : FrameRel SameMain := frameRel_agree State.main

theorem need_sameMain {α : Type} (r : Option α) (n : RegName) (s : State) :
    (need r n s).within SameMain s :=
  need_within frameRel_sameMain (fun _ _ => rfl) r n s

theorem DecoderEdits.sameMain {s t : State} (h : DecoderEdits s t) : SameMain s t :=
  congrArg Prod.fst h.headerPart_eq

theorem advancePc_sameMain (s : State) : (advancePc s).within SameMain s :=
  Micro.within_andThen frameRel_sameMain (need_sameMain _ _ s) fun _ s₁ =>
    Micro.within_andThen frameRel_sameMain (need_sameMain _ _ s₁) fun _ _ => rfl

theorem loopTest_sameMain (s : State) : (loopTest s).within SameMain s := by
  refine Micro.within_andThen frameRel_sameMain (need_sameMain _ _ s) fun p s₁ =>
    Micro.within_andThen frameRel_sameMain (need_sameMain _ _ s₁) fun groups s₂ =>
      Micro.within_andThen frameRel_sameMain (need_sameMain _ _ s₂) fun bands s₃ => ?_
  split_ifs <;> rfl

theorem bandLoop_sameMain (n : Nat) (s : State) : (bandLoop n s).within SameMain s := by
  induction n generalizing s with
  | zero => rfl
  | succ n ih =>
    refine Micro.within_andThen frameRel_sameMain (loopTest_sameMain s) fun more s₁ => ?_
    split
    · exact Micro.within_andThen frameRel_sameMain
        (Micro.within_mono (bandStep_edits s₁) fun h => (BandEdits.decoder h).sameMain) fun _ s₂ =>
          Micro.within_andThen frameRel_sameMain (advancePc_sameMain s₂) fun _ s₃ => ih s₃
    · rfl

/-- The Forward Decoder does not move `main` (R37). -/
theorem fwdDecode_sameMain (s : State) : (fwdDecode s).within SameMain s :=
  Micro.within_andThen frameRel_sameMain (Micro.within_mono (fwdInit_edits s) DecoderEdits.sameMain)
    fun _ s₁ => Micro.within_andThen frameRel_sameMain (bandLoop_sameMain _ s₁) fun _ _ => rfl

section
variable {s : State} {c : Cursor} {len : BitVec 11} {present : Bool} {lenEsc : BitVec 8}

/-- `CARVE.SF` moves `main` by exactly the declared length, or sets the mark `fault` (R97, R100). -/
theorem carveSf_moves (hm : s.main = some c) (hl : s.lengthOfRvlcSf = some len)
    (h : c.pos + len.toNat ≤ c.len ∨ s.cfg.overrunPolicy = .fault) :
    (carveSf s).post
      (fun _ t => ∃ seg, t = { s with main := some { c with pos := c.pos + len.toNat }, sf := seg })
      (fun t => t.fault ≠ none ∧ c.len < c.pos + len.toNat) := by
  rcases Nat.eq_zero_or_pos len.toNat with hz | hpos
  · rw [carveSf_zero hl hz, hz]
    exact ⟨none, by rw [Nat.add_zero, ← hm]⟩
  · rw [carveSf_positive hl hpos, Micro.post_andThen]
    exact Micro.post_mono (carveMain_moves hm h) (fun seg _ ht => ⟨some seg, by rw [ht]⟩) fun _ ht => ht

/-- `CARVE.ESC` moves `main` by exactly the declared length, or sets the mark `fault` (R98, R100). -/
theorem carveEsc_moves (hm : s.main = some c) (hp : s.sfEscapesPresent = some present)
    (hl : present = true → s.lengthOfRvlcEscapes = some lenEsc)
    (h : c.pos + (if present then lenEsc.toNat else 0) ≤ c.len ∨ s.cfg.overrunPolicy = .fault) :
    (carveEsc s).post
      (fun _ t => t.main = some { c with pos := c.pos + if present then lenEsc.toNat else 0 })
      (fun t => t.fault ≠ none ∧ c.len < c.pos + if present then lenEsc.toNat else 0) := by
  cases present with
  | false =>
    rw [carveEsc_absent hp]
    exact hm
  | true =>
    rw [carveEsc_carves hp (hl rfl), Micro.post_andThen]
    exact Micro.post_mono (carveMain_moves hm h) (fun _ _ ht => congrArg State.main ht) fun _ ht => ht

/-- `main` is `c` moved to the position `n`, or `c` has no such position and the mark `fault` is set. -/
def InStepOrFaulted (c : Cursor) (n : Nat) (t : State) : Prop :=
  t.main = some { c with pos := n } ∨ t.fault ≠ none ∧ c.len < n

/-- R76, R100: the two carves of a `CMD_DEC` move `main` by the declared lengths together, and nothing
after them moves it. -/
theorem decBody_inStep (hm : s.main = some c) (hl : s.lengthOfRvlcSf = some len)
    (hp : s.sfEscapesPresent = some present) (he : present = true → s.lengthOfRvlcEscapes = some lenEsc)
    (h : c.pos + declaredBits len present lenEsc ≤ c.len ∨ s.cfg.overrunPolicy = .fault) :
    InStepOrFaulted c (c.pos + declaredBits len present lenEsc) (decBody s).state := by
  rw [declaredBits, ← Nat.add_assoc] at h ⊢
  have hsf := h.imp_left (Nat.le_trans (Nat.le_add_right _ _))
  refine Micro.post_state (P := InStepOrFaulted c _) ?_
  rw [decBody, Micro.post_andThen]
  refine Micro.post_mono (carveSf_moves (s := { s with phase := .carve .sf }) hm hl hsf) ?_
    fun t ⟨hfault, hshort⟩ => .inr ⟨hfault, Nat.lt_add_right _ hshort⟩
  rintro - _ ⟨seg, rfl⟩
  rw [Micro.post_andThen]
  refine Micro.post_mono (carveEsc_moves rfl hp he h) ?_ fun _ => .inr
  intro _ u hu
  have hdecode := fwdDecode_sameMain { u with phase := .decode .init }
  exact Micro.post_mono hdecode (fun _ t ht => .inl (ht.trans hu)) fun t ht => .inl (ht.trans hu)

end

/-- Settles O40: the body leaves `main` in step unless it faulted for want of bits, which either premise
excludes; the way out leaves `main` alone. -/
theorem cmdDecKeepsOuterStreamInStep : Obligations.CmdDecKeepsOuterStreamInStep := by
  intro s t c len present lenEsc hidle hd hm hl hp he hexec h
  obtain rfl : (decBody s).state.leaveDec = t :=
    Host.Outcome.next.inj ((exec_cmdDec_accepted hidle hd).symm.trans hexec)
  refine (decBody_inStep hm hl hp he (h.imp_right And.left)).resolve_right ?_
  rintro ⟨hfault, hshort⟩
  rcases h with hfits | ⟨-, hnone⟩
  · exact absurd hfits (Nat.not_le_of_lt hshort)
  · exact hfault hnone

end Sys2Proof.Machine
end

/-! ## The bits a walk may consume (R107, R113, R181) -/

section
namespace Sys2Proof.Machine

/-- No entry of a well-formed table is longer than the table's declared maximum (R73, R74). -/
theorem len_le_of_wf {T : Rom} {m : Nat} (h : T.wf m = true) {e : RomEntry} (he : e ∈ T.all) :
    e.len ≤ m := by
  simp only [Rom.wf, Rom.sentinelOk, Rom.interiorShort, Bool.and_eq_true, decide_eq_true_eq,
    List.all_eq_true] at h
  obtain ⟨⟨⟨⟨⟨⟨⟨-, -, hsent⟩, -⟩, -⟩, hshort⟩, -⟩, -⟩, -⟩ := h
  rcases List.mem_append.1 he with hentry | hlast
  · exact (hshort e hentry).le
  · rw [List.mem_singleton.1 hlast, hsent]

theorem first_mem_all (T : Rom) : T.first ∈ T.all := by
  obtain ⟨entries, sent⟩ := T
  cases entries with
  | nil => exact List.mem_singleton_self sent
  | cons e es => exact List.mem_cons_self

/-- With `i` bits consumed and no entry ahead longer than `m`, the loop consumes at most the `m - i` bits
that are left: a step reads up to the length of the next entry. -/
theorem walkLoop_pos_le (p : OverrunPolicy) (maxLen : Nat) {m : Nat} (rest : List RomEntry) :
    ∀ (e : RomEntry) (k i cw : Nat) (c : Cursor), c.pos ≤ c.len → i ≤ m → (∀ x ∈ rest, x.len ≤ m) →
      (walkLoop p maxLen e k i cw c rest).cursor.pos + i ≤ c.pos + m := by
  induction rest with
  | nil => exact fun _ _ _ _ _ _ hi _ => Nat.add_le_add_left hi _
  | cons e' rest ih =>
    intro e k i cw c hc hi hlen
    have hstay : c.pos + i ≤ c.pos + m := Nat.add_le_add_left hi _
    simp only [walkLoop]
    split
    · exact hstay
    · split
      · exact hstay
      · split
        · exact hstay
        · next v c' hread =>
          obtain ⟨-, -, hadvance, hc'⟩ := Cursor.read_frame hread hc
          have hnext : e'.len ≤ m := hlen e' List.mem_cons_self
          have := ih e' (k + 1) (i + (e'.len - i)) (cw <<< (e'.len - i) ||| v) c' hc' (by omega)
            fun x hx => hlen x (List.mem_cons_of_mem _ hx)
          omega

/-- A walk along a well-formed table consumes at most the table's declared maximum (R107). -/
theorem walkTable_pos_le (p : OverrunPolicy) {T : Rom} {m : Nat} (h : T.wf m = true) {c : Cursor}
    (hc : c.pos ≤ c.len) : (walkTable p T c).cursor.pos ≤ c.pos + m := by
  have hfirst : T.first.len ≤ m := len_le_of_wf h (first_mem_all T)
  unfold walkTable
  split
  · exact Nat.le_add_right _ _
  · next cw c' hread =>
    obtain ⟨-, -, hadvance, hc'⟩ := Cursor.read_frame hread hc
    have := walkLoop_pos_le p T.sentinel.len T.all.tail T.first 0 T.first.len cw c' hc' hfirst
      fun x hx => len_le_of_wf h (List.mem_of_mem_tail hx)
    omega

/-- The cursor a walk leaves: the same buffer, forward by at most the table's declared maximum, in
range. -/
theorem walkTable_cursor (p : OverrunPolicy) {T : Rom} {m : Nat} (h : T.wf m = true) {c : Cursor}
    (hc : c.pos ≤ c.len) :
    ∃ n, n ≤ m ∧ (walkTable p T c).cursor = { c with pos := c.pos + n } ∧ c.pos + n ≤ c.len := by
  have hle := walkTable_pos_le p h hc
  obtain ⟨hbuf, hmoves⟩ := walkTable_moves p T c
  generalize (walkTable p T c).cursor = c' at hle hbuf hmoves
  obtain ⟨buf, pos⟩ := c'
  subst hbuf
  obtain ⟨n, rfl⟩ := Nat.exists_eq_add_of_le (hmoves hc).1
  exact ⟨n, Nat.le_of_add_le_add_left hle, rfl, (hmoves hc).2⟩

/-- However a walk ends, it moves its own sub-cursor as the table walk does, and beside it writes only
the walker registers, the value and the mark. -/
theorem walk_state (x : SubId) (s : State) :
    ∃ w v f, (walk x s).state =
      { s.moveSub x (walkTable s.cfg.overrunPolicy (romOfSub s.cfg x) (s.subCursor x)).cursor with
        walker := w, walkValue := v, fault := f } := by
  unfold walk
  cases walkTable s.cfg.overrunPolicy (romOfSub s.cfg x) (s.subCursor x) with
  | value v k c => exact ⟨_, _, _, rfl⟩
  | overrun w c => exact ⟨_, _, _, rfl⟩

/-- A walk of a held sub-cursor along a well-formed table moves that cursor only, and within the table's
declared maximum. -/
theorem walk_state_of_held {x : SubId} {s : State} {c : Cursor} {m : Nat}
    (hT : (romOfSub s.cfg x).wf m = true) (hx : s.sub x = some c) (hc : c.pos ≤ c.len) :
    ∃ n w v f, n ≤ m ∧ c.pos + n ≤ c.len ∧ (walk x s).state =
      { s.moveSub x { c with pos := c.pos + n } with walker := w, walkValue := v, fault := f } := by
  obtain ⟨n, hn, hcursor, hin⟩ := walkTable_cursor s.cfg.overrunPolicy hT hc
  obtain ⟨w, v, f, hstate⟩ := walk_state x s
  rw [show s.subCursor x = c from congrArg (Option.getD · Cursor.empty) hx, hcursor] at hstate
  exact ⟨n, w, v, f, hn, hin, hstate⟩

/-- Settles O23: a read of the walk goes up to the length of an entry, and no entry is longer than the
declared maximum of its table, 10 for `sf` and 21 for `esc`. -/
theorem walkConsumptionBounded : Obligations.WalkConsumptionBounded := by
  intro s t c hwf hc
  simp only [Config.wf, Bool.and_eq_true] at hwf
  obtain ⟨⟨⟨⟨hsf, hesc⟩, -⟩, -⟩, -⟩ := hwf
  refine ⟨fun hx hexec => ?_, fun hx hexec => ?_⟩
  · obtain rfl : (walk .sf s).state = t := Host.Outcome.next.inj hexec
    obtain ⟨n, w, v, f, hn, hin, hstate⟩ := walk_state_of_held (x := .sf) hsf hx hc
    rw [hstate]
    exact ⟨rfl, rfl, n, hn, congrArg (Option.map fun _ => _) hx, hin⟩
  · obtain rfl : (walk .esc s).state = t := Host.Outcome.next.inj hexec
    obtain ⟨n, w, v, f, hn, hin, hstate⟩ := walk_state_of_held (x := .esc) hesc hx hc
    rw [hstate]
    exact ⟨rfl, rfl, n, hn, congrArg (Option.map fun _ => _) hx, hin⟩

end Sys2Proof.Machine
end

/-! ## The bands that decode a delta, and what each band operation writes (R119 to R127, R131, R132, R157) -/

section
namespace Sys2Proof.Machine

open Sys2Proof.Claims

/-! ### The shape that the bands with a baseline share -/

/-- A band operation that decodes a delta and adds it to a baseline (R121, R122, R124, R126): 99 conceals
(R127); the sum of any other delta is checked (R132) and goes on to `use`. -/
def baselineBand (baseline : State → Option Int) (name : RegName) (use : Int → State → Micro Unit)
    (s : State) : Micro Unit :=
  (takeDelta s).andThen fun d s =>
    if isNomatch d then conceal s
    else (need (baseline s) name s).andThen fun old s => (newBaseline (old + d) s).andThen use

/-- What `BAND.INTENSITY` and `BAND.INTENSITY2` do with a sum (R121, R122). -/
def usePosition (v : Int) (s : State) : Micro Unit := writeElement v { s with isPosition := some v }

/-- What a NOISE band does with a sum (R123, R124). -/
def useNoise (v : Int) (s : State) : Micro Unit := writeElement v { s with noiseEnergy := some v }

/-- What `BAND.SPECTRAL` does with a sum: the sign decides (R126, R131). -/
def useScale (v : Int) (s : State) : Micro Unit :=
  if underflows v then .ended (({ s with scaleFactor := some v } : State).abort .scaleFactorUnderflow)
  else writeElement v { s with scaleFactor := some v }

theorem bandPosition_eq : bandPosition = baselineBand State.isPosition .isPosition usePosition := rfl

theorem bandNoiseDpcm_eq : bandNoiseDpcm = baselineBand State.noiseEnergy .noiseEnergy useNoise := rfl

theorem bandSpectral_eq : bandSpectral = baselineBand State.scaleFactor .scaleFactor useScale := rfl

/-! ### The delta that stands in the segments -/

/-- `t <- HUFF_SF` takes the delta, and what it writes lies inside `HuffFrame`, beside `t`. -/
theorem takeDelta_of_deltaAt {s s₁ : State} {d : Int} (hwf : s.cfg.wf = true) (h : DeltaAt s d s₁) :
    takeDelta s = .done d s₁ ∧ ∃ s', HuffFrame s s' ∧ s₁ = { s' with t := some d } := by
  obtain ⟨s', hhuff, rfl⟩ := h
  have htake : takeDelta s = .done d { s' with t := some d } := by
    rw [takeDelta, (huffSf_of_huffAt hwf hhuff).1, Micro.andThen_done]
  have hframe := takeDelta_frame s
  rw [htake] at hframe
  obtain ⟨s'', hs, -, heq⟩ := hframe
  exact ⟨htake, s'', hs, heq⟩

/-- What a delta that was taken leaves as it was: the configuration, the band pointer, the baselines and
the tables (R37). -/
theorem deltaAt_keeps {s s₁ : State} {d : Int} (hwf : s.cfg.wf = true) (h : DeltaAt s d s₁) :
    s₁.cfg = s.cfg ∧ s₁.pc = s.pc ∧ s₁.isPosition = s.isPosition ∧ s₁.noiseEnergy = s.noiseEnergy ∧
      s₁.scaleFactor = s.scaleFactor := by
  obtain ⟨-, _, ⟨a, b, w, v, x, rfl, -, -⟩, rfl⟩ := takeDelta_of_deltaAt hwf h
  exact ⟨rfl, rfl, rfl, rfl, rfl⟩

theorem deltaAt_atElement {s s₁ : State} {d : Int} {p : BandPtr} (hwf : s.cfg.wf = true)
    (h : DeltaAt s d s₁) (hat : AtElement s p) : AtElement s₁ p := by
  obtain ⟨hcfg, hpc, -⟩ := deltaAt_keeps hwf h
  rwa [AtElement, hcfg, hpc]

/-! ### The writes of the output table, at an element that exists -/

theorem writeElement_at {s : State} {p : BandPtr} (hat : AtElement s p) (v : Int) :
    writeElement v s = .done () (wrote s p v) :=
  writeElement_done v s p hat.1 hat.2

/-- R127: the element gets 0, and the decoder state becomes CONCEALED. -/
theorem conceal_at {s : State} {p : BandPtr} (hat : AtElement s p) :
    conceal s = .done () { wrote s p 0 with decState := some .concealed } := by
  rw [conceal, writeElement_at hat, Micro.andThen_done]

theorem usePosition_at {s : State} {p : BandPtr} (hat : AtElement s p) (v : Int) :
    usePosition v s = .done () (wrote { s with isPosition := some v } p v) :=
  writeElement_at (s := { s with isPosition := some v }) hat v

theorem useNoise_at {s : State} {p : BandPtr} (hat : AtElement s p) (v : Int) :
    useNoise v s = .done () (wrote { s with noiseEnergy := some v } p v) :=
  writeElement_at (s := { s with noiseEnergy := some v }) hat v

theorem useScale_at {s : State} {p : BandPtr} (hat : AtElement s p) {v : Int} (hv : 0 ≤ v) :
    useScale v s = .done () (wrote { s with scaleFactor := some v } p v) := by
  have hsign : ¬ underflows v = true := by rw [underflows, decide_eq_true_iff]; omega
  rw [useScale, if_neg hsign]
  exact writeElement_at (s := { s with scaleFactor := some v }) hat v

theorem useScale_negative (s : State) {v : Int} (hv : v < 0) :
    useScale v s =
      .ended (({ s with scaleFactor := some v } : State).abort .scaleFactorUnderflow) := by
  have hsign : underflows v = true := decide_eq_true hv
  rw [useScale, if_pos hsign]

/-! ### The three ways of a delta -/

section
variable {s s₁ : State} {d old : Int} {baseline : State → Option Int} {name : RegName}
  {use : Int → State → Micro Unit}

/-- R127, R157: a delta of 99 is tested before anything is added. -/
theorem baselineBand_nomatch (hwf : s.cfg.wf = true) (h : DeltaAt s 99 s₁) :
    baselineBand baseline name use s = conceal s₁ := by
  have hno : isNomatch 99 = true := rfl
  rw [baselineBand, (takeDelta_of_deltaAt hwf h).1, Micro.andThen_done, if_pos hno]

theorem baselineBand_delta (hwf : s.cfg.wf = true) (h : DeltaAt s d s₁) (hd : d ≠ 99)
    (hold : baseline s₁ = some old) :
    baselineBand baseline name use s = (newBaseline (old + d) s₁).andThen use := by
  have hno : ¬ isNomatch d = true := by rwa [isNomatch, decide_eq_true_iff]
  rw [baselineBand, (takeDelta_of_deltaAt hwf h).1, Micro.andThen_done, if_neg hno, need_written hold,
    Micro.andThen_done]

/-- A sum that fits goes on. -/
theorem baselineBand_fits (hwf : s.cfg.wf = true) (h : DeltaAt s d s₁) (hd : d ≠ 99)
    (hold : baseline s₁ = some old) (hfit : accFits s.cfg (old + d) = true) :
    baselineBand baseline name use s = use (old + d) s₁ := by
  rw [← (deltaAt_keeps hwf h).1] at hfit
  rw [baselineBand_delta hwf h hd hold, newBaseline_fits _ _ hfit, Micro.andThen_done]

/-- R132: a sum that does not fit is refused before it is written. -/
theorem baselineBand_refused (hwf : s.cfg.wf = true) (h : DeltaAt s d s₁) (hd : d ≠ 99)
    (hold : baseline s₁ = some old) (hfit : accFits s.cfg (old + d) = false) :
    baselineBand baseline name use s = .ended (s₁.refuse .accOverflow) := by
  rw [← (deltaAt_keeps hwf h).1] at hfit
  rw [baselineBand_delta hwf h hd hold, newBaseline_refused _ _ hfit, Micro.andThen_ended]

end

/-! ### The statements about one band -/

/-- Settles O27: both codebooks run the one rule, which adds to `is_position`. -/
theorem intensityBandsShareBaseline : Obligations.IntensityBandsShareBaseline := by
  intro s s₁ p d old i hi hwf hat hold hdelta hd hfit
  obtain ⟨-, -, hposition, -⟩ := deltaAt_keeps hwf hdelta
  have hband : bandPosition s = .done () (wrote { s₁ with isPosition := some (old + d) } p (old + d)) := by
    rw [bandPosition_eq, baselineBand_fits hwf hdelta hd (hposition.trans hold) hfit,
      usePosition_at (deltaAt_atElement hwf hdelta hat)]
  rcases hi with rfl | rfl <;> exact congrArg Micro.outcome hband

/-- Settles O29: the delta is added to `noise_energy`, and the sum is written. -/
theorem laterNoiseBandAddsDelta : Obligations.LaterNoiseBandAddsDelta := by
  intro s s₁ p d old hwf hat hold hdelta hd hfit
  obtain ⟨-, -, -, hnoise, -⟩ := deltaAt_keeps hwf hdelta
  have hband : bandNoiseDpcm s = .done () (wrote { s₁ with noiseEnergy := some (old + d) } p (old + d)) := by
    rw [bandNoiseDpcm_eq, baselineBand_fits hwf hdelta hd (hnoise.trans hold) hfit,
      useNoise_at (deltaAt_atElement hwf hdelta hat)]
  exact congrArg Micro.outcome hband

/-- Settles O31: the sum is written to `scale_factor`, and its sign decides between element and abort. -/
theorem spectralBandAddsOrAborts : Obligations.SpectralBandAddsOrAborts := by
  intro s s₁ cb p d old hwf hat hold hdelta hd hfit
  obtain ⟨-, -, -, -, hscale⟩ := deltaAt_keeps hwf hdelta
  have hband : bandSpectral s = useScale (old + d) s₁ := by
    rw [bandSpectral_eq, baselineBand_fits hwf hdelta hd (hscale.trans hold) hfit]
  refine ⟨fun hpos => ?_, fun hneg => ?_⟩
  · exact congrArg Micro.outcome (hband.trans (useScale_at (deltaAt_atElement hwf hdelta hat) hpos))
  · exact congrArg Micro.outcome (hband.trans (useScale_negative s₁ hneg))

/-- Settles O32: in the shape that the four operations share, 99 is tested first. -/
theorem nomatchDeltaConceals : Obligations.NomatchDeltaConceals := by
  intro s s₁ cb p i hi hwf hat hdelta
  have hband (baseline : State → Option Int) (name : RegName) (use : Int → State → Micro Unit) :
      (baselineBand baseline name use s).outcome =
        .next { wrote s₁ p 0 with decState := some .concealed } := by
    rw [baselineBand_nomatch hwf hdelta, conceal_at (deltaAt_atElement hwf hdelta hat)]
    rfl
  rcases hi with rfl | rfl | rfl | rfl <;> exact hband _ _ _

/-- R132: the literal of the first NOISE band is checked as a delta is. -/
theorem bandNoisePcm_refused {s : State} {old : Int} {raw : BitVec 9} (ho : s.noiseEnergy = some old)
    (hr : s.dpcmNoiseNrg = some raw)
    (hfit : accFits s.cfg (old + noiseLiteralOf s.cfg.noiseLiteral raw) = false) :
    bandNoisePcm s = .ended (({ s with noisePcmFlag := some false } : State).refuse .accOverflow) := by
  simp only [bandNoisePcm, ho, hr, need_some, Micro.andThen_done, newBaseline, hfit, Bool.false_eq_true,
    if_false, Micro.andThen_ended]

/-- Settles O33: the check stands before both writes, in each operation that updates a baseline. -/
theorem baselineOverflowRefused : Obligations.BaselineOverflowRefused := by
  intro s s₁ cb d old raw
  refine ⟨fun hwf hdelta hd hfit => ?_, fun ho hr hfit => ?_⟩
  · obtain ⟨-, -, hposition, hnoise, hscale⟩ := deltaAt_keeps hwf hdelta
    have hband {baseline : State → Option Int} (name : RegName) (use : Int → State → Micro Unit)
        (hold : baseline s₁ = some old) : (baselineBand baseline name use s).outcome =
          .next { s₁ with refused := some .accOverflow } :=
      congrArg Micro.outcome (baselineBand_refused hwf hdelta hd hold hfit)
    exact ⟨fun h => ⟨hband _ _ (hposition.trans h), hband _ _ (hposition.trans h)⟩,
      fun h => hband _ _ (hnoise.trans h), fun h => hband _ _ (hscale.trans h)⟩
  · exact congrArg Micro.outcome (bandNoisePcm_refused ho hr hfit)

/-- Settles O26: both operations are the write of 0 at the band pointer. -/
theorem zeroFillBandsWriteZero : Obligations.ZeroFillBandsWriteZero := by
  rintro s p i (rfl | rfl) hat <;> exact congrArg Micro.outcome (writeElement_at hat 0)

/-- Settles O30: the operation is the abort, and nothing else. -/
theorem booksclAborts : Obligations.BooksclAborts := fun _ => rfl

/-- Settles O47: in CONCEALED the selection asks for no codebook. -/
theorem concealedBandIgnoresCodebook : Obligations.ConcealedBandIgnoresCodebook := by
  intro s p hq hp hd hat
  have hfetch : fetchOp s = .done .bandConcealed s := by
    simp only [fetchOp, hp, fetchBand, need_written hd, Micro.andThen_done]
  rw [step_quiet hq, microStep_of_fetchOp hfetch, zeroFillBandsWriteZero s p _ (.inl rfl) hat]

/-! ### The band pointer -/

theorem afterOp_decodeBand {s : State} (hp : s.phase = .decode .band) : afterOp s = afterBand s := by
  rw [afterOp, hp]

/-- R116, R129: the loop test of a run with bands finds one, or ends the run. -/
theorem toBandOrEnd_eq {s : State} {p : BandPtr} {groups : BitVec 4} {bands : BitVec 6}
    (hp : s.pc = some p) (hg : s.numWindowGroups = some groups) (hb : s.maxSfb = some bands)
    (hbands : bands.toNat ≠ 0) :
    toBandOrEnd s = .done () (if p.g < groups.toNat then { s with phase := .decode .band }
      else { s with result := some codeOk, phase := .release }) := by
  rw [toBandOrEnd, loopTest_eq hp hg hb, if_neg hbands]
  split_ifs <;> rfl

/-- R128: after a band that did not abort, the loop test stands at the next band. -/
theorem afterBand_advances {s : State} {p : BandPtr} {groups : BitVec 4} {bands : BitVec 6}
    (ha : s.aborted = false) (hp : s.pc = some p) (hg : s.numWindowGroups = some groups)
    (hb : s.maxSfb = some bands) (hbands : bands.toNat ≠ 0) :
    afterBand s = .done () (if (nextPtr bands.toNat p).g < groups.toNat
      then { s with pc := some (nextPtr bands.toNat p), phase := .decode .band }
      else { s with pc := some (nextPtr bands.toNat p), result := some codeOk, phase := .release }) := by
  rw [afterBand, ha, if_neg Bool.false_ne_true, advancePc_done hp hb, Micro.andThen_done]
  exact toBandOrEnd_eq (s := { s with pc := some (nextPtr bands.toNat p) }) rfl hg hb hbands

/-- Settles O49: the pointer advances inside the group, then to the next group, then past the last. -/
theorem bandPointerAdvances : Obligations.BandPointerAdvances := by
  intro s p groups bands hm hph hpc hg hb hgroup
  rw [continueWith_unmarked hm, afterOp_decodeBand hph]
  have inside (hsfb : p.sfb + 1 < bands.toNat) : nextPtr bands.toNat p = ⟨p.g, p.sfb + 1⟩ := if_pos hsfb
  have across (hsfb : bands.toNat = p.sfb + 1) : nextPtr bands.toNat p = ⟨p.g + 1, 0⟩ :=
    if_neg (by omega)
  refine ⟨fun ha => ?_, fun ha hsfb => ?_, fun ha hsfb hnext => ?_, fun ha hsfb hlast => ?_⟩
  · rw [afterBand, if_pos ha, Micro.state_done]
  · rw [afterBand_advances ha hpc hg hb (by omega), inside hsfb, if_pos hgroup, Micro.state_done, ← hph]
  · rw [afterBand_advances ha hpc hg hb (by omega), across hsfb, if_pos hnext, Micro.state_done, ← hph]
  · rw [afterBand_advances ha hpc hg hb (by omega), across hsfb, if_neg hlast.not_gt, Micro.state_done]
    rfl

end Sys2Proof.Machine
end

/-! ## The loop of a run, round by round: its order, its length, and the table it fills (R116, R118, R128) -/

section
namespace Sys2Proof.Machine

/-! ### The order of the bands (R21, R128) -/

/-- The number of bands before `p`, with `bands` bands in each group (R182). -/
def bandIndex (bands : Nat) (p : BandPtr) : Nat := p.g * bands + p.sfb

/-- `p` stands in its group, or at its front (where it also stands when a group has no bands). -/
def InRow (bands : Nat) (p : BandPtr) : Prop := p.sfb < bands ∨ p.sfb = 0

theorem inRow_nextPtr (bands : Nat) (p : BandPtr) : InRow bands (nextPtr bands p) := by
  unfold nextPtr
  split
  · next h => exact .inl h
  · exact .inr rfl

theorem bandIndex_nextPtr {bands : Nat} {p : BandPtr} (h : p.sfb < bands) :
    bandIndex bands (nextPtr bands p) = bandIndex bands p + 1 := by
  unfold nextPtr bandIndex
  split
  · rfl
  · simp only [Nat.add_mul]
    omega

/-- The next band stands right behind `p`: what is before it is before `p`, or is `p`. -/
theorem keyLt_nextPtr_iff {bands g sfb : Nat} {p : BandPtr} (hp : p.sfb < bands) (hsfb : sfb < bands) :
    keyLt (g, sfb) ((nextPtr bands p).g, (nextPtr bands p).sfb) = true ↔
      (g, sfb) = (p.g, p.sfb) ∨ keyLt (g, sfb) (p.g, p.sfb) = true := by
  simp only [keyLt_iff, Prod.mk.injEq]
  unfold nextPtr
  split <;> simp only <;> omega

/-- The count of bands reaches the end of the run only past the last group. -/
theorem le_of_bandIndex {bands groups : Nat} {p : BandPtr} (hp : InRow bands p)
    (h : groups * bands ≤ bandIndex bands p) (hbands : bands ≠ 0) : groups ≤ p.g := by
  by_contra hlt
  have hmul : (p.g + 1) * bands ≤ groups * bands := Nat.mul_le_mul_right _ (by omega)
  rw [Nat.add_mul] at hmul
  rcases hp with hp | hp <;> simp only [bandIndex] at h <;> omega

theorem keyLt_iff_bandIndex {bands : Nat} {p q : BandPtr} (hp : p.sfb < bands) (hq : q.sfb < bands) :
    keyLt (p.g, p.sfb) (q.g, q.sfb) = true ↔ bandIndex bands p < bandIndex bands q := by
  have rows {a b : Nat} (hab : a < b) : a * bands + bands ≤ b * bands := by
    rw [← Nat.succ_mul]
    exact Nat.mul_le_mul_right _ hab
  simp only [keyLt_iff, bandIndex]
  rcases Nat.lt_trichotomy p.g q.g with hlt | heq | hgt
  · have := rows hlt
    omega
  · rw [heq]
    omega
  · have := rows hgt
    omega

/-! ### The loop as rounds -/

/-- A loop test that ended the loop ends it again. -/
theorem loopTest_again {s t : State} (h : loopTest s = .done false t) : loopTest t = .done false t := by
  cases hp : s.pc with
  | none => simp [loopTest, hp] at h
  | some p =>
    cases hg : s.numWindowGroups with
    | none => simp [loopTest, hp, hg] at h
    | some groups =>
      cases hb : s.maxSfb with
      | none => simp [loopTest, hp, hg, hb] at h
      | some bands =>
        have htest := h
        rw [loopTest_eq hp hg hb] at h
        split_ifs at h
        · obtain rfl := (Micro.done.inj h).2
          exact (loopTest_eq (s := { s with pc := some _ }) rfl hg hb).trans (if_neg (Nat.lt_irrefl _))
        · cases (Micro.done.inj h).1
        · obtain rfl := (Micro.done.inj h).2
          exact htest

/-- One more round of the loop is a round at its end (R116). -/
theorem bandLoop_succ_last (n : Nat) (s : State) :
    bandLoop (n + 1) s = (bandLoop n s).andThen fun _ => bandLoop 1 := by
  induction n generalizing s with
  | zero => rfl
  | succ n ih =>
    rw [bandLoop, bandLoop]
    cases htest : loopTest s with
    | ended t => rfl
    | done more t =>
      cases more with
      | false => simp [bandLoop, loopTest_again htest]
      | true => simp only [Micro.andThen_done, if_true, ih, Micro.andThen_assoc]

/-- A loop that was ended early stays ended. -/
theorem bandLoop_ended {n m : Nat} {s t : State} (h : bandLoop n s = .ended t) (hnm : n ≤ m) :
    bandLoop m s = .ended t := by
  induction m, hnm using Nat.le_induction with
  | base => exact h
  | succ m _ ih => rw [bandLoop_succ_last, ih, Micro.andThen_ended]

section
variable {s : State} {p : BandPtr} {groups : BitVec 4} {bands : BitVec 6}

/-- A round at a band: its operation, and then the pointer advances. -/
theorem bandLoop_one_band (hp : s.pc = some p) (hg : s.numWindowGroups = some groups)
    (hb : s.maxSfb = some bands) (hpg : p.g < groups.toNat) (hbands : bands.toNat ≠ 0) :
    bandLoop 1 s = (bandStep s).andThen fun _ => advancePc := by
  rw [bandLoop, loopTest_eq hp hg hb, if_pos hpg, if_neg hbands, Micro.andThen_done, if_pos rfl]
  cases bandStep s with
  | ended t => rfl
  | done a t =>
    simp only [Micro.andThen_done]
    cases advancePc t <;> rfl

/-- A round past the last band: nothing happens, except that without bands `g` is set to
`num_window_groups` (R116). -/
theorem bandLoop_one_over (hp : s.pc = some p) (hg : s.numWindowGroups = some groups)
    (hb : s.maxSfb = some bands) (hover : bands.toNat ≠ 0 → groups.toNat ≤ p.g) :
    bandLoop 1 s = .done () { s with pc := some ⟨max groups.toNat p.g, p.sfb⟩ } := by
  rw [bandLoop, loopTest_eq hp hg hb]
  split_ifs with hpg hbands
  · rw [Nat.max_eq_left hpg.le]
    rfl
  · exact absurd (hover hbands) hpg.not_ge
  · rw [Nat.max_eq_right (Nat.le_of_not_lt hpg), ← hp]
    rfl

end

end Sys2Proof.Machine
end

/-! ## How a band ends: its element is written, or the run is over (R118 to R127, R152) -/

section
namespace Sys2Proof.Machine

/-- What the course of a run is read from: the pointer, the ranges, the decoder state, the output table. -/
def runPart (s : State) := (s.pc, s.numWindowGroups, s.maxSfb, s.decState, s.mem.scaleFactors)

/-- A band of a run that goes on: its element has been written. The decoder state is what it was or has
become CONCEALED, and the element of a band that leaves CONCEALED is 0 (R119, R127). -/
def BandWrote (s t : State) : Prop :=
  ∃ p v, s.pc = some p ∧
    runPart t =
      (s.pc, s.numWindowGroups, s.maxSfb, t.decState, cellWrite p.g p.sfb v s.mem.scaleFactors) ∧
    (t.decState = s.decState ∨ t.decState = some .concealed) ∧ (t.decState = some .concealed → v = 0)

/-- The run was aborted at its band: neither the pointer nor the output table is written (R152). -/
def BandAborted (s t : State) : Prop :=
  ∃ c, runPart t = (s.pc, s.numWindowGroups, s.maxSfb, some (.aborted c), s.mem.scaleFactors) ∧
    t.result = some (abortResult c)

/-- How a band ends: its element is written, or a mark is set, or the run is aborted. -/
def BandEnds (s : State) (m : Micro Unit) : Prop :=
  m.post (fun _ => BandWrote s) fun t => t.marked = true ∨ BandAborted s t

theorem runPart_eq_iff {s : State} {pc : Option BandPtr} {groups : Option (BitVec 4)}
    {bands : Option (BitVec 6)} {d : Option DecState} {table : Cells Int} :
    runPart s = (pc, groups, bands, d, table) ↔
      s.pc = pc ∧ s.numWindowGroups = groups ∧ s.maxSfb = bands ∧ s.decState = d ∧
        s.mem.scaleFactors = table := by
  simp only [runPart, Prod.mk.injEq]

theorem marked_raiseFault (s : State) (r : Fault) : (s.raiseFault r).marked = true := rfl

theorem marked_refuse (s : State) (r : Refusal) : (s.refuse r).marked = true := by
  simp [State.marked]

/-! ### The parts of a band operation -/

/-- What comes before the write of a band leaves the course of the run alone. -/
theorem BandEnds.of_runPart {s s' : State} {m : Micro Unit} (h : runPart s' = runPart s)
    (hm : BandEnds s' m) : BandEnds s m := by
  obtain ⟨hpc, hg, hb, hd, hmem⟩ := runPart_eq_iff.1 h
  refine Micro.post_mono hm (fun _ t ht => ?_) fun t ht => ht.imp_right fun ht => ?_
  · simpa only [BandWrote, hpc, hg, hb, hd, hmem] using ht
  · simpa only [BandAborted, hpc, hg, hb, hd, hmem] using ht

theorem need_bandEnds {α : Type} {r : Option α} {n : RegName} {s : State} {f : α → State → Micro Unit}
    (h : ∀ a, r = some a → BandEnds s (f a s)) : BandEnds s ((need r n s).andThen f) := by
  rw [BandEnds, Micro.post_andThen, need_post]
  exact ⟨h, fun _ => .inl (marked_raiseFault _ _)⟩

theorem newBaseline_bandEnds {v : Int} {s : State} {f : Int → State → Micro Unit}
    (h : BandEnds s (f v s)) : BandEnds s ((newBaseline v s).andThen f) := by
  cases hfit : accFits s.cfg v with
  | true => rwa [newBaseline_fits v s hfit]
  | false =>
    rw [newBaseline_refused v s hfit]
    exact .inl (marked_refuse _ _)

/-- In CONCEALED only 0 is written. -/
theorem writeElement_bandEnds {v : Int} {s : State} (h : s.decState = some .concealed → v = 0) :
    BandEnds s (writeElement v s) :=
  writeElement_post v s _ _ (fun p hp _ => ⟨p, v, hp, rfl, .inl rfl, h⟩)
    (fun _ => .inl (marked_raiseFault _ _)) fun _ _ _ => .inl (marked_refuse _ _)

theorem conceal_bandEnds (s : State) : BandEnds s (conceal s) := by
  rw [BandEnds, conceal, Micro.post_andThen]
  exact writeElement_post 0 s _ _ (fun p hp _ => ⟨p, 0, hp, rfl, .inr rfl, fun _ => rfl⟩)
    (fun _ => .inl (marked_raiseFault _ _)) fun _ _ _ => .inl (marked_refuse _ _)

theorem abort_bandEnds (s : State) (c : AbortCode) : BandEnds s (.ended (s.abort c)) :=
  .inr ⟨c, rfl, rfl⟩

theorem takeDelta_runPart (s : State) :
    (takeDelta s).post (fun _ t => runPart t = runPart s) fun t => t.marked = true := by
  refine Micro.post_mono (takeDelta_frame s) ?_ ?_
  · rintro _ _ ⟨_, ⟨a, b, w, v, d, rfl, -, -⟩, -, rfl⟩
    rfl
  · rintro _ ⟨_, x, -, rfl⟩
    exact marked_raiseFault _ _

theorem decState_of_runPart {s t : State} (h : runPart t = runPart s) : t.decState = s.decState := by
  obtain ⟨-, -, -, hd, -⟩ := runPart_eq_iff.1 h
  exact hd

/-! ### The band operations outside CONCEALED -/

theorem usePosition_bandEnds (v : Int) {s : State} (hs : s.decState ≠ some .concealed) :
    BandEnds s (usePosition v s) :=
  BandEnds.of_runPart (s' := { s with isPosition := some v }) rfl
    (writeElement_bandEnds fun h => absurd h hs)

theorem useNoise_bandEnds (v : Int) {s : State} (hs : s.decState ≠ some .concealed) :
    BandEnds s (useNoise v s) :=
  BandEnds.of_runPart (s' := { s with noiseEnergy := some v }) rfl
    (writeElement_bandEnds fun h => absurd h hs)

theorem useScale_bandEnds (v : Int) {s : State} (hs : s.decState ≠ some .concealed) :
    BandEnds s (useScale v s) := by
  refine BandEnds.of_runPart (s' := { s with scaleFactor := some v }) rfl ?_
  unfold useScale
  split
  · exact abort_bandEnds _ _
  · exact writeElement_bandEnds fun h => absurd h hs

theorem baselineBand_bandEnds {use : Int → State → Micro Unit}
    (h : ∀ v {s : State}, s.decState ≠ some .concealed → BandEnds s (use v s))
    (baseline : State → Option Int) (name : RegName) {s : State} (hs : s.decState ≠ some .concealed) :
    BandEnds s (baselineBand baseline name use s) := by
  rw [BandEnds, baselineBand, Micro.post_andThen]
  refine Micro.post_mono (takeDelta_runPart s) (fun d s₁ hs₁ => ?_) fun _ => .inl
  refine BandEnds.of_runPart hs₁ ?_
  split
  · exact conceal_bandEnds s₁
  · rw [← decState_of_runPart hs₁] at hs
    exact need_bandEnds fun old _ => newBaseline_bandEnds (h _ hs)

theorem bandNoisePcm_bandEnds {s : State} (hs : s.decState ≠ some .concealed) :
    BandEnds s (bandNoisePcm s) :=
  BandEnds.of_runPart (s' := { s with noisePcmFlag := some false }) rfl <|
    need_bandEnds fun _ _ => need_bandEnds fun _ _ => newBaseline_bandEnds (useNoise_bandEnds _ hs)

/-- Whichever operation the dispatch selects (R118). -/
theorem bandStep_bandEnds (s : State) : BandEnds s (bandStep s) := by
  refine need_bandEnds fun d hd => ?_
  split
  · exact writeElement_bandEnds fun _ => rfl
  · next hne =>
    have hs : s.decState ≠ some .concealed := fun h => hne (Option.some.inj (hd.symm.trans h))
    refine need_bandEnds fun p _ => need_bandEnds fun cb _ => ?_
    split_ifs
    · exact writeElement_bandEnds fun _ => rfl
    · exact baselineBand_bandEnds usePosition_bandEnds _ _ hs
    · exact baselineBand_bandEnds usePosition_bandEnds _ _ hs
    · refine need_bandEnds fun first _ => ?_
      split
      · exact bandNoisePcm_bandEnds hs
      · exact baselineBand_bandEnds useNoise_bandEnds _ _ hs
    · exact abort_bandEnds s _
    · exact baselineBand_bandEnds useScale_bandEnds _ _ hs

end Sys2Proof.Machine
end

/-! ## The course of a run: what each way of ending leaves (R119, R127 to R135, R146, R152) -/

section
namespace Sys2Proof.Machine

open Sys2Proof.Claims

/-! ### A run at its loop test -/

/-- `(g, sfb)` is a band of a run with these ranges (R21). -/
def InRun (groups : BitVec 4) (bands : BitVec 6) (g sfb : Nat) : Prop :=
  g < groups.toNat ∧ sfb < bands.toNat

/-- Exactly the elements of the bands before `p` are defined (R53, R135). -/
def DefinedBefore (groups : BitVec 4) (bands : BitVec 6) (s : State) (p : BandPtr) : Prop :=
  ∀ g sfb, (element s g sfb).isSome = true ↔ InRun groups bands g sfb ∧ keyLt (g, sfb) (p.g, p.sfb) = true

/-- An unaborted run stands before the loop test at `p` (R116). -/
structure RunAt (groups : BitVec 4) (bands : BitVec 6) (s : State) (p : BandPtr) : Prop where
  pointer : s.pc = some p
  groupsIn : s.numWindowGroups = some groups
  bandsIn : s.maxSfb = some bands
  row : InRow bands.toNat p
  active : s.decState = some .normal ∨ s.decState = some .concealed
  defined : DefinedBefore groups bands s p

/-- A run has been aborted at a band: what stands before that band is defined, and nothing else
(R133, R152). -/
def Stopped (groups : BitVec 4) (bands : BitVec 6) (s : State) : Prop :=
  ∃ c p, s.decState = some (.aborted c) ∧ s.result = some (abortResult c) ∧ s.pc = some p ∧
    InRun groups bands p.g p.sfb ∧ DefinedBefore groups bands s p

section
variable {groups : BitVec 4} {bands : BitVec 6} {s t : State} {p : BandPtr}

theorem element_of_table {g sfb : Nat} (h : t.mem.scaleFactors = s.mem.scaleFactors) :
    element t g sfb = element s g sfb := by
  rw [element, element, h]

/-- R53: what a write makes of each element. -/
theorem element_of_write {v : Int} (h : t.mem.scaleFactors = cellWrite p.g p.sfb v s.mem.scaleFactors)
    (g sfb : Nat) :
    element t g sfb = if (g, sfb) = (p.g, p.sfb) then some v else element s g sfb := by
  rw [element, h]
  split
  · next heq =>
    obtain ⟨rfl, rfl⟩ := Prod.mk.inj heq
    exact cellRead_cellWrite_same _ _ _ _
  · next hne => exact cellRead_cellWrite_other _ _ _ _ _ _ hne

theorem not_keyLt_self (k : Nat × Nat) : ¬ keyLt k k = true := by
  rw [keyLt_iff]
  omega

theorem not_keyLt_of_keyLt {a b : Nat × Nat} (h : keyLt a b = true) : ¬ keyLt b a = true :=
  fun h' => not_keyLt_self _ (keyLt_trans h h')

/-- A band inside the ranges is one that the loop test finds. -/
theorem RunAt.inRun (h : RunAt groups bands s p) (hpg : p.g < groups.toNat) (hb : bands.toNat ≠ 0) :
    InRun groups bands p.g p.sfb :=
  ⟨hpg, h.row.elim id fun h0 => by omega⟩

/-- The element at `p` is written and the pointer advances (R53, R128). -/
theorem DefinedBefore.next {v : Int} (h : DefinedBefore groups bands s p)
    (hp : InRun groups bands p.g p.sfb)
    (ht : t.mem.scaleFactors = cellWrite p.g p.sfb v s.mem.scaleFactors) :
    DefinedBefore groups bands t (nextPtr bands.toNat p) := by
  intro g sfb
  rw [element_of_write ht]
  by_cases hin : InRun groups bands g sfb
  · rw [keyLt_nextPtr_iff hp.2 hin.2]
    by_cases heq : (g, sfb) = (p.g, p.sfb)
    · simp [heq, hin]
    · simp [heq, h g sfb]
  · have hne : (g, sfb) ≠ (p.g, p.sfb) := by
      rintro heq
      obtain ⟨rfl, rfl⟩ := Prod.mk.inj heq
      exact hin hp
    simp [hne, hin, h g sfb]

/-- The band at `p` has been written, and the pointer advances. -/
theorem RunAt.next (h : RunAt groups bands s p) (hp : InRun groups bands p.g p.sfb) (hw : BandWrote s t) :
    RunAt groups bands { t with pc := some (nextPtr bands.toNat p) } (nextPtr bands.toNat p) := by
  obtain ⟨q, v, hq, hrun, hst, -⟩ := hw
  obtain rfl := Option.some.inj (h.pointer.symm.trans hq)
  obtain ⟨-, hg, hb, -, hmem⟩ := runPart_eq_iff.1 hrun
  refine ⟨rfl, hg.trans h.groupsIn, hb.trans h.bandsIn, inRow_nextPtr _ _, ?_, h.defined.next hp hmem⟩
  rcases hst with hst | hst
  · exact h.active.imp hst.trans hst.trans
  · exact .inr hst

/-- A band that aborted the run. -/
theorem RunAt.stopped (h : RunAt groups bands s p) (hp : InRun groups bands p.g p.sfb)
    (ha : BandAborted s t) : Stopped groups bands t := by
  obtain ⟨c, hrun, hres⟩ := ha
  obtain ⟨hpc, -, -, hd, hmem⟩ := runPart_eq_iff.1 hrun
  refine ⟨c, p, hd, hres, hpc.trans h.pointer, hp, fun g sfb => ?_⟩
  rw [element_of_table hmem]
  exact h.defined g sfb

/-- A round at a band of the run. -/
theorem RunAt.round (h : RunAt groups bands s p) (hp : InRun groups bands p.g p.sfb) :
    (bandLoop 1 s).post
      (fun _ t => ∃ v, bandStep s = .done () v ∧ BandWrote s v ∧
        t = { v with pc := some (nextPtr bands.toNat p) })
      (fun t => t.marked = true ∨ Stopped groups bands t) := by
  rw [bandLoop_one_band h.pointer h.groupsIn h.bandsIn hp.1 (Nat.ne_zero_of_lt hp.2)]
  have hends := bandStep_bandEnds s
  cases hstep : bandStep s with
  | ended t =>
    rw [hstep] at hends
    exact hends.imp_right (h.stopped hp)
  | done a v =>
    rw [hstep] at hends
    have hw : BandWrote s v := hends
    obtain ⟨q, x, hq, hrun, -⟩ := hends
    obtain ⟨hpc, -, hb, -, -⟩ := runPart_eq_iff.1 hrun
    rw [Micro.andThen_done, advancePc_done (hpc.trans h.pointer) (hb.trans h.bandsIn)]
    exact ⟨v, rfl, hw, rfl⟩

end

/-! ### Concealment (R119, R127) -/

/-- The run that starts in `s₀` entered concealment at a band `q` before `p`, in the state `u`: since
then every element is 0, and those before `q` are as they were. -/
def ConcealedSince (s₀ : State) (groups : BitVec 4) (bands : BitVec 6) (t : State) (p : BandPtr) : Prop :=
  ∃ j q u v, bandLoop j s₀ = .done () u ∧ u.decState = some .normal ∧ u.pc = some q ∧
    bandStep u = .done () v ∧ v.decState = some .concealed ∧ InRun groups bands q.g q.sfb ∧
    keyLt (q.g, q.sfb) (p.g, p.sfb) = true ∧
    ∀ g sfb, InRun groups bands g sfb → keyLt (g, sfb) (p.g, p.sfb) = true →
      element t g sfb = if keyLt (g, sfb) (q.g, q.sfb) then element u g sfb else some 0

section
variable {s₀ s t v : State} {groups : BitVec 4} {bands : BitVec 6} {p : BandPtr}

/-- A band that leaves CONCEALED: it entered it, or the band before it had. -/
theorem RunAt.concealed_next {k : Nat} (h : RunAt groups bands s p) (hp : InRun groups bands p.g p.sfb)
    (hloop : bandLoop k s₀ = .done () s)
    (hsince : s.decState = some .concealed → ConcealedSince s₀ groups bands s p)
    (hstep : bandStep s = .done () v) (hw : BandWrote s v) (hv : v.decState = some .concealed)
    (ht : t.mem.scaleFactors = v.mem.scaleFactors) :
    ConcealedSince s₀ groups bands t (nextPtr bands.toNat p) := by
  obtain ⟨q, x, hq, hrun, -, hzero⟩ := hw
  obtain rfl := Option.some.inj (h.pointer.symm.trans hq)
  obtain rfl := hzero hv
  obtain ⟨-, -, -, -, hmem⟩ := runPart_eq_iff.1 hrun
  have helem := element_of_write (ht.trans hmem)
  rcases h.active with hs | hs
  · refine ⟨k, p, s, v, hloop, hs, h.pointer, hstep, hv, hp, keyLt_nextPtr (.inl rfl), ?_⟩
    intro g sfb hin hlt
    rw [helem]
    rcases (keyLt_nextPtr_iff hp.2 hin.2).1 hlt with heq | hlt
    · rw [if_pos heq, heq, if_neg (not_keyLt_self _)]
    · have hne : (g, sfb) ≠ (p.g, p.sfb) := fun heq => not_keyLt_self _ (heq ▸ hlt)
      rw [if_neg hne, if_pos hlt]
  · obtain ⟨j, q, u, w, hj, hu, huq, hstep', hw', hqin, hqp, hsame⟩ := hsince hs
    refine ⟨j, q, u, w, hj, hu, huq, hstep', hw', hqin, keyLt_nextPtr (.inr hqp), ?_⟩
    intro g sfb hin hlt
    rw [helem]
    rcases (keyLt_nextPtr_iff hp.2 hin.2).1 hlt with heq | hlt
    · rw [if_pos heq, heq, if_neg (not_keyLt_of_keyLt hqp)]
    · have hne : (g, sfb) ≠ (p.g, p.sfb) := fun heq => not_keyLt_self _ (heq ▸ hlt)
      rw [if_neg hne, hsame g sfb hin hlt]

/-! ### The run, by its rounds -/

/-- After `k` rounds of the run that starts in `s₀` the pointer stands behind `k` bands, or past the last
one. -/
def Progress (s₀ : State) (groups : BitVec 4) (bands : BitVec 6) (k : Nat) (t : State) : Prop :=
  ∃ p, RunAt groups bands t p ∧ (bandIndex bands.toNat p = k ∨ groups.toNat ≤ p.g) ∧
    (t.decState = some .concealed → ConcealedSince s₀ groups bands t p)

/-- A round past the last band keeps everything but a pointer that never stood at a band. -/
theorem progress_over (h : RunAt groups bands s p) (hover : bands.toNat ≠ 0 → groups.toNat ≤ p.g)
    (hsince : s.decState = some .concealed → ConcealedSince s₀ groups bands s p) (k : Nat) :
    (bandLoop 1 s).post (fun _ => Progress s₀ groups bands k) fun _ => False := by
  rw [bandLoop_one_over h.pointer h.groupsIn h.bandsIn hover]
  have hsame {g sfb : Nat} (hin : InRun groups bands g sfb) :
      (⟨max groups.toNat p.g, p.sfb⟩ : BandPtr) = p := by
    rw [Nat.max_eq_right (hover (Nat.ne_zero_of_lt hin.2))]
  refine ⟨⟨max groups.toNat p.g, p.sfb⟩, ⟨rfl, h.groupsIn, h.bandsIn, h.row, h.active, fun g sfb => ?_⟩,
    .inr (Nat.le_max_left _ _), fun hd => ?_⟩
  · by_cases hin : InRun groups bands g sfb
    · rw [hsame hin]
      exact h.defined g sfb
    · exact (h.defined g sfb).trans (by simp only [hin, false_and])
  · obtain ⟨-, q, -, -, -, -, -, -, -, hq, -⟩ := hsince hd
    rw [hsame hq]
    exact hsince hd

/-- After any number of rounds the run is in progress, or a mark or an abort has ended it. -/
theorem bandLoop_progress (h : RunAt groups bands s₀ ⟨0, 0⟩) (hd : s₀.decState = some .normal) (k : Nat) :
    (bandLoop k s₀).post (fun _ => Progress s₀ groups bands k)
      fun t => t.marked = true ∨ Stopped groups bands t := by
  induction k with
  | zero =>
    refine ⟨⟨0, 0⟩, h, .inl (by simp [bandIndex]), fun hc => ?_⟩
    rw [hd] at hc
    cases hc
  | succ k ih =>
    rw [bandLoop_succ_last]
    cases hloop : bandLoop k s₀ with
    | ended t =>
      rw [hloop] at ih
      exact ih
    | done a s =>
      rw [hloop] at ih
      obtain ⟨p, hr, hk, hsince⟩ := ih
      rw [Micro.andThen_done]
      by_cases hband : p.g < groups.toNat ∧ bands.toNat ≠ 0
      · have hp := hr.inRun hband.1 hband.2
        refine Micro.post_mono (hr.round hp) ?_ fun _ ht => ht
        rintro _ _ ⟨v, hstep, hw, rfl⟩
        refine ⟨_, hr.next hp hw, .inl ?_, fun hv => hr.concealed_next hp hloop hsince hstep hw hv rfl⟩
        rw [bandIndex_nextPtr hp.2, hk.resolve_right hband.1.not_ge]
      · exact Micro.post_mono (progress_over hr (fun hb => Nat.le_of_not_lt fun hlt => hband ⟨hlt, hb⟩)
          hsince _) (fun _ _ ht => ht) fun _ => False.elim

/-- The bound of the loop carries a run past its last band (R116, R182). -/
theorem Progress.finished {k : Nat} (h : Progress s₀ groups bands k t)
    (hk : groups.toNat * bands.toNat < k) :
    ∃ p, RunAt groups bands t p ∧ groups.toNat ≤ p.g ∧
      (t.decState = some .concealed → ConcealedSince s₀ groups bands t p) := by
  obtain ⟨p, hr, hidx, hsince⟩ := h
  refine ⟨p, hr, hidx.elim (fun hidx => ?_) id, hsince⟩
  by_cases hb : bands.toNat = 0
  · have hsfb : p.sfb = 0 := hr.row.elim (fun hrow => by omega) id
    simp only [bandIndex, hb, hsfb, Nat.mul_zero] at hidx
    omega
  · exact le_of_bandIndex hr.row (hidx ▸ hk.le) hb

end

end Sys2Proof.Machine
end

/-! ## The body of a `CMD_DEC`: how its run starts, and how it ends (R96, R116, R117, R129, R135, R140) -/

section
namespace Sys2Proof.Machine

open Sys2Proof.Claims

/-! ### The start of a run -/

/-- `s` after a completed `FWD_INIT` (R117). -/
def startRun (s : State) (gain : Int) : State := { s with
  mem := { s.mem with scaleFactors := [] }
  scaleFactor := some gain
  isPosition := some 0
  noiseEnergy := some (gain - 90)
  noisePcmFlag := some true
  decState := some .normal
  pc := some ⟨0, 0⟩ }

/-- In a `CMD_DEC` from `s` both carves and `FWD_INIT` complete, and the run starts in `s₀` (R140). -/
structure RunStarts (s : State) (groups : BitVec 4) (bands : BitVec 6) (gain : Int) (s₀ : State) :
    Prop where
  groupsIn : s.numWindowGroups = some groups
  bandsIn : s.maxSfb = some bands
  gainIn : s.globalGain = some gain
  fits : groups.toNat ≤ s.cfg.maxGroups ∧ bands.toNat ≤ s.cfg.maxSfb
  steps : ∃ s₁ s₂, carveSf { s with phase := .carve .sf } = .done () s₁ ∧
    carveEsc { s₁ with phase := .carve .esc } = .done () s₂ ∧
    fwdInit { s₂ with phase := .decode .init } = .done () s₀
  start : ∃ m a b, s₀ = startRun { s with main := m, sf := a, esc := b, phase := .decode .init } gain

/-- All that `FWD_INIT` can do (R117). -/
theorem fwdInit_ends (s : State) :
    (fwdInit s).post
      (fun _ t => ∃ groups bands gain, s.numWindowGroups = some groups ∧ s.maxSfb = some bands ∧
        s.globalGain = some gain ∧ (groups.toNat ≤ s.cfg.maxGroups ∧ bands.toNat ≤ s.cfg.maxSfb) ∧
        t = startRun s gain)
      (fun t => t.marked = true ∧ (t.refused = s.refused ∨ t.refused = some .indexRange)) := by
  cases hg : s.numWindowGroups with
  | none =>
    rw [fwdInit_needs_groups hg]
    exact ⟨rfl, .inl rfl⟩
  | some groups =>
    cases hb : s.maxSfb with
    | none =>
      rw [fwdInit_needs_bands hg hb]
      exact ⟨rfl, .inl rfl⟩
    | some bands =>
      by_cases hx : s.cfg.maxGroups < groups.toNat ∨ s.cfg.maxSfb < bands.toNat
      · rw [fwdInit_refused hg hb hx]
        exact ⟨marked_refuse _ _, .inr rfl⟩
      · cases hgain : s.globalGain with
        | none =>
          rw [fwdInit_needs_gain hg hb hx hgain]
          exact ⟨rfl, .inl rfl⟩
        | some gain =>
          rw [fwdInit_done hg hb hx hgain]
          push Not at hx
          exact ⟨groups, bands, gain, rfl, rfl, rfl, hx, rfl⟩

section
variable {s s₀ : State} {groups : BitVec 4} {bands : BitVec 6} {gain : Int}

/-- From the start of its run on, the body of a `CMD_DEC` is the loop, and result 0 at its end. -/
theorem RunStarts.decBody_eq (h : RunStarts s groups bands gain s₀) :
    decBody s = (bandLoop (groups.toNat * bands.toNat + 1) s₀).andThen fun _ t =>
      .done () { t with result := some codeOk } := by
  obtain ⟨s₁, s₂, h₁, h₂, h₃⟩ := h.steps
  obtain ⟨m, a, b, hs₀⟩ := h.start
  have hbound : loopBound s₀ = groups.toNat * bands.toNat + 1 := by
    simp only [loopBound, hs₀, startRun, h.groupsIn, h.bandsIn, Option.getD_some]
  simp only [decBody, fwdDecode, h₁, h₂, h₃, Micro.andThen_done, hbound]

/-- The body of a `CMD_DEC` either is marked before its run starts, or starts its run. -/
theorem decBody_post (s : State) (Q : Unit → State → Prop) (E : State → Prop)
    (hmark : ∀ t, t.marked = true → t.refused = s.refused ∨ t.refused = some .indexRange → E t)
    (hrun : ∀ groups bands gain s₀, RunStarts s groups bands gain s₀ → (decBody s).post Q E) :
    (decBody s).post Q E := by
  have h₁ := carveSf_ends { s with phase := .carve .sf }
  cases hsf : carveSf { s with phase := .carve .sf } with
  | ended t =>
    rw [hsf] at h₁
    obtain ⟨r, rfl⟩ := h₁
    rw [decBody, hsf]
    exact hmark _ (marked_raiseFault _ _) (.inl rfl)
  | done x s₁ =>
    rw [hsf] at h₁
    obtain ⟨m₁, a, rfl, -⟩ := h₁
    have h₂ := carveEsc_ends { s with phase := .carve .esc, main := m₁, sf := a }
    cases hesc : carveEsc { s with phase := .carve .esc, main := m₁, sf := a } with
    | ended t =>
      rw [hesc] at h₂
      obtain ⟨r, rfl⟩ := h₂
      simp only [decBody, hsf, hesc, Micro.andThen_done]
      exact hmark _ (marked_raiseFault _ _) (.inl rfl)
    | done x s₂ =>
      rw [hesc] at h₂
      obtain ⟨m, b, rfl, -⟩ := h₂
      have h₃ := fwdInit_ends { s with phase := .decode .init, main := m, sf := a, esc := b }
      cases hinit : fwdInit { s with phase := .decode .init, main := m, sf := a, esc := b } with
      | ended t =>
        rw [hinit] at h₃
        simp only [decBody, fwdDecode, hsf, hesc, hinit, Micro.andThen_done]
        exact hmark _ h₃.1 h₃.2
      | done x s₀ =>
        rw [hinit] at h₃
        obtain ⟨groups, bands, gain, hg, hb, hgain, hfits, rfl⟩ := h₃
        exact hrun groups bands gain _ ⟨hg, hb, hgain, hfits, ⟨_, _, hsf, hesc, hinit⟩, m, a, b, rfl⟩

/-- A run starts at its first band, with no element defined. -/
theorem RunStarts.runAt (h : RunStarts s groups bands gain s₀) :
    RunAt groups bands s₀ ⟨0, 0⟩ ∧ s₀.decState = some .normal := by
  obtain ⟨m, a, b, rfl⟩ := h.start
  refine ⟨⟨rfl, h.groupsIn, h.bandsIn, .inr rfl, .inl rfl, fun g sfb => ?_⟩, rfl⟩
  have hfirst : ¬ keyLt (g, sfb) (0, 0) = true := by
    rw [keyLt_iff]
    omega
  simp [hfirst, element, startRun, cellRead]

/-- The bands of the run are the range of the statements (R21). -/
theorem RunStarts.inRange_iff (h : RunStarts s groups bands gain s₀) (g sfb : Nat) :
    InRange s g sfb ↔ InRun groups bands g sfb := by
  simp only [InRange, InRun, h.groupsIn, h.bandsIn, Option.getD_some]

end

/-! ### The end of a run -/

/-- A run that came to its end (R129): every element in range is defined, and a concealed one is 0 from
some band on. -/
def Finished (s₀ : State) (groups : BitVec 4) (bands : BitVec 6) (t : State) : Prop :=
  t.result = some codeOk ∧ ∃ p, RunAt groups bands t p ∧ groups.toNat ≤ p.g ∧
    (t.decState = some .concealed → ConcealedSince s₀ groups bands t p)

theorem RunAt.of_runPart {groups : BitVec 4} {bands : BitVec 6} {s t : State} {p : BandPtr}
    (h : RunAt groups bands s p) (hp : runPart t = runPart s) : RunAt groups bands t p := by
  obtain ⟨hpc, hg, hb, hd, hmem⟩ := runPart_eq_iff.1 hp
  exact ⟨hpc.trans h.pointer, hg.trans h.groupsIn, hb.trans h.bandsIn, h.row, hd ▸ h.active,
    fun g sfb => element_of_table hmem ▸ h.defined g sfb⟩

/-- `t` is the end of a run of the `CMD_DEC` that started in `s`: finished, or aborted (R129, R152). -/
def RunEnded (s t : State) : Prop :=
  ∃ groups bands gain s₀, RunStarts s groups bands gain s₀ ∧
    (Finished s₀ groups bands t ∨ Stopped groups bands t)

/-- The body of a `CMD_DEC` ends its run, or sets a mark. -/
theorem decBody_ends (s : State) : (decBody s).state.marked = true ∨ RunEnded s (decBody s).state := by
  refine Micro.post_state (P := fun t => t.marked = true ∨ RunEnded s t)
    (decBody_post s _ _ (fun t hm _ => .inl hm) fun groups bands gain s₀ hs => ?_)
  obtain ⟨hr, hd⟩ := hs.runAt
  rw [hs.decBody_eq, Micro.post_andThen]
  refine Micro.post_mono (bandLoop_progress hr hd _) ?_ ?_
  · rintro - t hprog
    obtain ⟨p, hr, hp, hsince⟩ := hprog.finished (Nat.lt_succ_self _)
    exact .inr ⟨groups, bands, gain, s₀, hs, .inl ⟨rfl, p, hr.of_runPart rfl, hp, hsince⟩⟩
  · exact fun t ht => ht.imp_right fun hstop => ⟨groups, bands, gain, s₀, hs, .inr hstop⟩

/-- An unmarked `CMD_DEC` ended its run; `RELEASE` and `IDLE` change nothing of its end. -/
theorem cmdDec_ends {s t : State} (hidle : s.phase = .idle) (hd : s.hdrDone = true)
    (hexec : exec .cmdDec s = .next t) (hm : t.marked = false) : RunEnded s t := by
  obtain rfl : (decBody s).state.leaveDec = t :=
    Host.Outcome.next.inj ((exec_cmdDec_accepted hidle hd).symm.trans hexec)
  rcases decBody_ends s with hmark | ⟨groups, bands, gain, s₀, hs, ⟨hres, p, hr, hfin⟩ | hstop⟩
  · exact absurd hmark (Bool.eq_false_iff.1 hm)
  · exact ⟨groups, bands, gain, s₀, hs, .inl ⟨hres, p, hr.of_runPart rfl, hfin⟩⟩
  · exact ⟨groups, bands, gain, s₀, hs, .inr hstop⟩

/-- Settles O41: a finished run is unaborted and has result 0, and an abort writes its code. -/
theorem cmdDecResultMatchesState : Obligations.CmdDecResultMatchesState := by
  intro s t hidle hd hexec hm
  obtain ⟨groups, bands, gain, s₀, -, ⟨hres, p, hr, -⟩ | ⟨c, p, hst, hres, -⟩⟩ :=
    cmdDec_ends hidle hd hexec hm
  · exact .inl ⟨hr.active, hres⟩
  · cases c with
    | invalidCodebook => exact .inr (.inl ⟨hst, hres⟩)
    | scaleFactorUnderflow => exact .inr (.inr ⟨hst, hres⟩)

/-! ### The output table -/

/-- Nothing outside the ranges is ever defined. -/
theorem DefinedBefore.outside {groups : BitVec 4} {bands : BitVec 6} {t : State} {p : BandPtr}
    (h : DefinedBefore groups bands t p) {g sfb : Nat} (hout : ¬ InRun groups bands g sfb) :
    element t g sfb = none := by
  rw [← Option.not_isSome_iff_eq_none, h g sfb]
  exact fun hin => hout hin.1

theorem keyLt_of_le {groups : BitVec 4} {bands : BitVec 6} {p : BandPtr} (hp : groups.toNat ≤ p.g)
    {g sfb : Nat} (hin : InRun groups bands g sfb) : keyLt (g, sfb) (p.g, p.sfb) = true :=
  (keyLt_iff _ _).2 (.inl (Nat.lt_of_lt_of_le hin.1 hp))

theorem RunStarts.concealsAt {s s₀ u v : State} {groups : BitVec 4} {bands : BitVec 6} {gain : Int}
    (h : RunStarts s groups bands gain s₀) {j : Nat} {q : BandPtr} (hloop : bandLoop j s₀ = .done () u)
    (hu : u.decState = some .normal) (hq : u.pc = some q) (hstep : bandStep u = .done () v)
    (hv : v.decState = some .concealed) : ConcealsAt s q u := by
  obtain ⟨s₁, s₂, h₁, h₂, h₃⟩ := h.steps
  exact ⟨j, v, ⟨s₁, s₂, s₀, h₁, h₂, h₃, hloop⟩, hu, hq, hstep, hv⟩

/-- Settles O42: a finished run has passed every band of its ranges, an aborted one those before `pc`. -/
theorem cmdDecOutputTable : Obligations.CmdDecOutputTable := by
  intro s t hidle hd hexec hm
  obtain ⟨groups, bands, gain, s₀, hs, hend⟩ := cmdDec_ends hidle hd hexec hm
  simp only [hs.inRange_iff]
  rcases hend with ⟨hres, p, hr, hp, hsince⟩ | ⟨c, p, hst, hres, hpc, hin, hdef⟩
  · refine ⟨fun g sfb => hr.defined.outside,
      fun _ g sfb hin => (hr.defined g sfb).2 ⟨hin, keyLt_of_le hp hin⟩, fun hc => ⟨hres, ?_⟩,
      fun hne => absurd hres hne⟩
    obtain ⟨j, q, u, v, hloop, hu, hq, hstep, hv, hqin, -, hsame⟩ := hsince hc
    exact ⟨q, u, hs.concealsAt hloop hu hq hstep hv, hqin,
      fun g sfb hin => hsame g sfb hin (keyLt_of_le hp hin)⟩
  · have hcode : t.result ≠ some 0#8 := by
      rw [hres]
      cases c <;> decide
    refine ⟨fun g sfb => hdef.outside, fun h => absurd h hcode, fun hc => ?_, fun _ =>
      ⟨p, hpc, hin, fun g sfb hrun => (hdef g sfb).trans (and_iff_right hrun)⟩⟩
    rw [hst] at hc
    cases hc

end Sys2Proof.Machine
end

/-! ## Frames whose bands are all ZERO, up to the end or to an INVALID band (R120, R125, R129, R133, R140) -/

section
namespace Sys2Proof.Machine

open Sys2Proof.Claims

/-! ### A launched run starts -/

section
variable {s : State} {c : Cursor} {len : BitVec 11} {present : Bool} {lenEsc : BitVec 8}

/-- `CARVE.SF` with its bits in `main` completes (R97). -/
theorem carveSf_inside (hm : s.main = some c) (hl : s.lengthOfRvlcSf = some len)
    (h : c.pos + len.toNat ≤ c.len) :
    ∃ seg, carveSf s = .done () { s with main := some { c with pos := c.pos + len.toNat }, sf := seg } := by
  have hmoves := carveSf_moves hm hl (.inl h)
  cases hcarve : carveSf s with
  | done a t =>
    rw [hcarve] at hmoves
    obtain ⟨seg, rfl⟩ := hmoves
    exact ⟨seg, rfl⟩
  | ended t =>
    rw [hcarve] at hmoves
    exact absurd h (Nat.not_le_of_lt hmoves.2)

/-- `CARVE.ESC` with its bits in `main` completes (R98). -/
theorem carveEsc_inside (hm : s.main = some c) (hp : s.sfEscapesPresent = some present)
    (hl : present = true → s.lengthOfRvlcEscapes = some lenEsc)
    (h : c.pos + (if present then lenEsc.toNat else 0) ≤ c.len) :
    ∃ seg, carveEsc s = .done () { s with
      main := some { c with pos := c.pos + if present then lenEsc.toNat else 0 }, esc := seg } := by
  have hmoves := carveEsc_moves hm hp hl (.inl h)
  have hends := carveEsc_ends s
  cases hcarve : carveEsc s with
  | done a t =>
    rw [hcarve] at hmoves hends
    obtain ⟨m, seg, rfl, -⟩ := hends
    obtain rfl : m = _ := hmoves
    exact ⟨seg, rfl⟩
  | ended t =>
    rw [hcarve] at hmoves
    exact absurd h (Nat.not_le_of_lt hmoves.2)

/-- Both carves and `FWD_INIT` of a launched `CMD_DEC` complete, with `main` past both segments. -/
theorem launch_runStarts {groups : BitVec 4} {bands : BitVec 6} {gain : Int}
    (h : Launch s c len present lenEsc groups bands gain) :
    ∃ s₀ a b, RunStarts s groups bands gain s₀ ∧ s₀ = startRun { s with
      main := some { c with pos := c.pos + declaredBits len present lenEsc }
      sf := a, esc := b, phase := .decode .init } gain := by
  have henough := h.enough
  rw [declaredBits, ← Nat.add_assoc] at henough ⊢
  obtain ⟨a, hsf⟩ := carveSf_inside (s := { s with phase := .carve .sf }) h.mainIn h.lengthIn
    ((Nat.le_add_right _ _).trans henough)
  obtain ⟨b, hesc⟩ := carveEsc_inside (s := { s with
      phase := .carve .esc, main := some { c with pos := c.pos + len.toNat }, sf := a })
    rfl h.escapesIn h.escLengthIn henough
  have hfit : ¬ (s.cfg.maxGroups < groups.toNat ∨ s.cfg.maxSfb < bands.toNat) := by
    have := h.groupsOk
    have := h.bandsOk
    omega
  exact ⟨_, a, b, ⟨h.groupsIn, h.bandsIn, h.gainIn, ⟨h.groupsOk, h.bandsOk⟩,
    ⟨_, _, hsf, hesc, fwdInit_done h.groupsIn h.bandsIn hfit h.gainIn⟩, _, a, b, rfl⟩, rfl⟩

end

/-! ### A ZERO band and an INVALID band -/

section
variable {s : State} {p : BandPtr}

/-- R120: a ZERO band writes 0, and nothing else. -/
theorem bandStep_zero (hd : s.decState = some .normal) (hat : AtElement s p)
    (hcb : cellRead p.g p.sfb s.mem.sfbCb = some 0#4) : bandStep s = .done () (wrote s p 0) := by
  simp only [bandStep, hd, hat.1, readCodebook, hcb, need_some, Micro.andThen_done, reduceCtorEq, if_false,
    if_true]
  exact writeElement_at hat 0

/-- R125: an INVALID band aborts. -/
theorem bandStep_invalid (hd : s.decState = some .normal) (hp : s.pc = some p)
    (hcb : cellRead p.g p.sfb s.mem.sfbCb = some 12#4) :
    bandStep s = .ended (s.abort .invalidCodebook) := by
  simp [bandStep, hd, hp, readCodebook, hcb, bandBookscl]

end

/-! ### A run over ZERO bands -/

/-- `s₀` at the band pointer `p`, with the output table `m`: all that a run over ZERO bands changes. -/
def zeroRun (s₀ : State) (p : BandPtr) (m : Cells Int) : State :=
  { s₀ with pc := some p, mem := { s₀.mem with scaleFactors := m } }

/-- Every element that is defined is 0. -/
def AllZero (m : Cells Int) : Prop := ∀ g sfb v, cellRead g sfb m = some v → v = 0

theorem allZero_cellWrite {m : Cells Int} (h : AllZero m) (g sfb : Nat) :
    AllZero (cellWrite g sfb 0 m) := by
  intro g' sfb' v hv
  by_cases heq : (g', sfb') = (g, sfb)
  · obtain ⟨rfl, rfl⟩ := Prod.mk.inj heq
    rw [cellRead_cellWrite_same] at hv
    exact (Option.some.inj hv).symm
  · rw [cellRead_cellWrite_other g sfb 0 m g' sfb' heq] at hv
    exact h g' sfb' v hv

/-- Before the end of the run the pointer stands at a band. -/
theorem inRun_of_bandIndex {groups : BitVec 4} {bands : BitVec 6} {p : BandPtr}
    (hrow : InRow bands.toNat p) (h : bandIndex bands.toNat p < groups.toNat * bands.toNat) :
    InRun groups bands p.g p.sfb := by
  have hbands : bands.toNat ≠ 0 := by
    intro h0
    rw [h0, Nat.mul_zero] at h
    exact Nat.not_lt_zero _ h
  exact ⟨Nat.lt_of_mul_lt_mul_right (Nat.lt_of_le_of_lt (Nat.le_add_right _ _) h),
    hrow.elim id fun h0 => by omega⟩

theorem bandIndex_lt {groups : BitVec 4} {bands : BitVec 6} {p : BandPtr}
    (h : InRun groups bands p.g p.sfb) : bandIndex bands.toNat p < groups.toNat * bands.toNat := by
  by_contra hge
  exact absurd (le_of_bandIndex (.inl h.2) (Nat.le_of_not_lt hge) (Nat.ne_zero_of_lt h.2)) h.1.not_ge

section
variable {s s₀ : State} {groups : BitVec 4} {bands : BitVec 6} {gain : Int}

/-- What a run never writes, and what it needs to write an element (R51, R117). -/
theorem RunStarts.atElement (h : RunStarts s groups bands gain s₀) {p : BandPtr} (m : Cells Int)
    (hp : InRun groups bands p.g p.sfb) : AtElement (zeroRun s₀ p m) p := by
  obtain ⟨_, a, b, rfl⟩ := h.start
  refine ⟨rfl, ?_⟩
  rw [elementExists, decide_eq_true_iff]
  exact ⟨hp.1.trans_le h.fits.1, hp.2.trans_le h.fits.2⟩

theorem RunStarts.sfbCb_eq (h : RunStarts s groups bands gain s₀) : s₀.mem.sfbCb = s.mem.sfbCb := by
  obtain ⟨_, a, b, rfl⟩ := h.start
  rfl

/-- While the bands are ZERO, each round writes a 0 and advances the pointer. -/
theorem RunStarts.zero_rounds (h : RunStarts s groups bands gain s₀) {n : Nat}
    (hn : n ≤ groups.toNat * bands.toNat)
    (hz : ∀ p : BandPtr, InRun groups bands p.g p.sfb → bandIndex bands.toNat p < n →
      cellRead p.g p.sfb s.mem.sfbCb = some 0#4) {k : Nat} (hk : k ≤ n) :
    ∃ p m, bandLoop k s₀ = .done () (zeroRun s₀ p m) ∧ AllZero m ∧ bandIndex bands.toNat p = k ∧
      RunAt groups bands (zeroRun s₀ p m) p := by
  induction k with
  | zero =>
    obtain ⟨m, a, b, hs₀⟩ := h.start
    have hstart : zeroRun s₀ ⟨0, 0⟩ [] = s₀ := by rw [hs₀]; rfl
    refine ⟨⟨0, 0⟩, [], by rw [hstart]; rfl, nofun, by simp [bandIndex], ?_⟩
    rw [hstart]
    exact h.runAt.1
  | succ k ih =>
    obtain ⟨p, m, hloop, hzero, hidx, hr⟩ := ih (Nat.le_of_succ_le hk)
    have hp : InRun groups bands p.g p.sfb := inRun_of_bandIndex hr.row (by omega)
    have hstep : bandStep (zeroRun s₀ p m) = .done () (wrote (zeroRun s₀ p m) p 0) :=
      bandStep_zero h.runAt.2 (h.atElement m hp) (h.sfbCb_eq ▸ hz p hp (by omega))
    refine ⟨nextPtr bands.toNat p, cellWrite p.g p.sfb 0 m, ?_, allZero_cellWrite hzero _ _, ?_, ?_⟩
    · rw [bandLoop_succ_last, hloop, Micro.andThen_done, bandLoop_one_band hr.pointer hr.groupsIn
        hr.bandsIn hp.1 (Nat.ne_zero_of_lt hp.2), hstep, Micro.andThen_done]
      exact advancePc_done (s := wrote (zeroRun s₀ p m) p 0) rfl hr.bandsIn
    · rw [bandIndex_nextPtr hp.2, hidx]
    · exact hr.next (t := wrote (zeroRun s₀ p m) p 0) hp ⟨p, 0, rfl, rfl, .inl rfl, fun _ => rfl⟩

end

/-- What is defined is 0. -/
theorem element_zero {groups : BitVec 4} {bands : BitVec 6} {t : State} {p : BandPtr}
    (hdef : DefinedBefore groups bands t p) (hzero : AllZero t.mem.scaleFactors) {g sfb : Nat}
    (hin : InRun groups bands g sfb) (hlt : keyLt (g, sfb) (p.g, p.sfb) = true) :
    element t g sfb = some 0 := by
  obtain ⟨v, hv⟩ := Option.isSome_iff_exists.1 ((hdef g sfb).2 ⟨hin, hlt⟩)
  rw [hv, hzero g sfb v hv]

/-- What an accepted `CMD_DEC` leaves, from what its body is. -/
theorem exec_cmdDec_of_decBody {s : State} {m : Micro Unit} (hp : s.phase = .idle) (hd : s.hdrDone = true)
    (h : decBody s = m) : exec .cmdDec s = .next m.state.leaveDec :=
  h ▸ exec_cmdDec_accepted hp hd

/-- Settles O43: as many rounds as there are bands write zeros, and the next one ends the loop. -/
theorem cmdDecOfZeroBandsCompletes : Obligations.CmdDecOfZeroBandsCompletes := by
  intro s c len present lenEsc groups bands gain hl hz
  obtain ⟨s₀, a, b, hs, hs₀⟩ := launch_runStarts hl
  simp only [hs.inRange_iff] at hz ⊢
  obtain ⟨p, m, hloop, hzero, hidx, hr⟩ := hs.zero_rounds le_rfl (fun p hp _ => hz p.g p.sfb hp) le_rfl
  have hover : bands.toNat ≠ 0 → groups.toNat ≤ p.g := le_of_bandIndex hr.row hidx.ge
  have hbody := hs.decBody_eq
  rw [bandLoop_succ_last, hloop, Micro.andThen_done,
    bandLoop_one_over hr.pointer hr.groupsIn hr.bandsIn hover, Micro.andThen_done] at hbody
  subst hs₀
  refine ⟨_, exec_cmdDec_of_decBody hl.idle hl.hdrDone hbody, hl.unmarked, rfl, rfl, rfl, rfl, rfl, rfl, rfl,
    fun g sfb hin => ?_, fun g sfb => hr.defined.outside⟩
  exact element_zero hr.defined hzero hin (keyLt_of_le (hover (Nat.ne_zero_of_lt hin.2)) hin)

/-- Two bands with as many bands before them are one. -/
theorem eq_of_bandIndex {bands : Nat} {p q : BandPtr} (hp : p.sfb < bands) (hq : q.sfb < bands)
    (h : bandIndex bands p = bandIndex bands q) : p = q := by
  have hpq : keyLt (p.g, p.sfb) (q.g, q.sfb) ≠ true := fun hlt =>
    absurd ((keyLt_iff_bandIndex hp hq).1 hlt) h.not_lt
  have hqp : keyLt (q.g, q.sfb) (p.g, p.sfb) ≠ true := fun hlt =>
    absurd ((keyLt_iff_bandIndex hq hp).1 hlt) h.not_gt
  have heq : (q.g, q.sfb) = (p.g, p.sfb) := not_not.1 fun hne => hqp (keyLt_of_not hpq hne)
  exact congrArg (fun k : Nat × Nat => (⟨k.1, k.2⟩ : BandPtr)) heq.symm

/-- Settles O44: the rounds before the INVALID band write zeros, and that band ends the run. -/
theorem cmdDecStopsAtInvalidBand : Obligations.CmdDecStopsAtInvalidBand := by
  intro s c len present lenEsc groups bands gain q hl hq hcb hz
  obtain ⟨s₀, a, b, hs, hs₀⟩ := launch_runStarts hl
  simp only [hs.inRange_iff] at hq hz ⊢
  have hlast := bandIndex_lt hq
  obtain ⟨p, m, hloop, hzero, hidx, hr⟩ := hs.zero_rounds hlast.le (fun p hp hlt =>
    hz p.g p.sfb hp ((keyLt_iff_bandIndex hp.2 hq.2).2 hlt)) le_rfl
  obtain rfl : p = q := eq_of_bandIndex (inRun_of_bandIndex hr.row (hidx ▸ hlast)).2 hq.2 hidx
  have hstep : bandStep (zeroRun s₀ p m) = .ended ((zeroRun s₀ p m).abort .invalidCodebook) :=
    bandStep_invalid (p := p) hs.runAt.2 rfl (hs.sfbCb_eq ▸ hcb)
  have hround : bandLoop (bandIndex bands.toNat p + 1) s₀ =
      .ended ((zeroRun s₀ p m).abort .invalidCodebook) := by
    rw [bandLoop_succ_last, hloop, Micro.andThen_done,
      bandLoop_one_band hr.pointer hr.groupsIn hr.bandsIn hq.1 (Nat.ne_zero_of_lt hq.2),
      hstep, Micro.andThen_ended]
  have hbody := hs.decBody_eq
  rw [bandLoop_ended hround (Nat.succ_le_succ hlast.le), Micro.andThen_ended] at hbody
  subst hs₀
  refine ⟨_, exec_cmdDec_of_decBody hl.idle hl.hdrDone hbody, hl.unmarked, rfl, rfl, rfl, rfl, rfl,
    fun g sfb => element_zero hr.defined hzero, fun g sfb hlt => ?_⟩
  rw [← Option.not_isSome_iff_eq_none]
  exact fun hsome => absurd ((hr.defined g sfb).1 hsome).2 (Bool.eq_false_iff.1 hlt)

end Sys2Proof.Machine
end

/-! ## The bound of the baselines: no overflow at the default widths (R117, R121 to R126, R132) -/

section
namespace Sys2Proof.Machine

open Sys2Proof.Claims

/-! ### The values of walks and deltas -/

/-- `v` lies within `b` of 0. -/
def Within (b v : Int) : Prop := -b ≤ v ∧ v ≤ b

/-- The walk returns the value of an entry it passes. -/
theorem walkLoop_value (p : OverrunPolicy) (maxLen : Nat) (rest : List RomEntry) :
    ∀ {e : RomEntry} {k i cw k' : Nat} {c c' : Cursor} {v : Int},
      walkLoop p maxLen e k i cw c rest = .value v k' c' → ∃ x ∈ e :: rest, v = x.val := by
  induction rest with
  | nil =>
    intro e k i cw k' c c' v h
    exact ⟨e, List.mem_cons_self, (WalkResult.value.inj h).1.symm⟩
  | cons e' rest ih =>
    intro e k i cw k' c c' v h
    simp only [walkLoop] at h
    split at h
    · exact ⟨e, List.mem_cons_self, (WalkResult.value.inj h).1.symm⟩
    · split at h
      · exact ⟨e, List.mem_cons_self, (WalkResult.value.inj h).1.symm⟩
      · split at h
        · cases h
        · obtain ⟨x, hx, hv⟩ := ih h
          exact ⟨x, List.mem_cons_of_mem _ hx, hv⟩

/-- A walk returns the value of an entry of its table, the sentinel among them (R106). -/
theorem walk_value (x : SubId) (s : State) :
    (walk x s).post (fun v t => t.cfg = s.cfg ∧ ∃ e ∈ (romOfSub s.cfg x).all, v = e.val)
      fun _ => True := by
  unfold walk
  split
  · next v k c hwalk =>
    refine ⟨State.moveSub_cfg s x c, ?_⟩
    unfold walkTable at hwalk
    split at hwalk
    · cases hwalk
    · obtain ⟨e, he, hv⟩ := walkLoop_value _ _ _ hwalk
      rcases List.mem_cons.1 he with rfl | he
      · exact ⟨_, first_mem_all _, hv⟩
      · exact ⟨e, List.mem_of_mem_tail he, hv⟩
  · trivial

/-- The widths of the defaults, and tables whose deltas lie within 60, the value 99 apart (R132). -/
structure SmallDeltas (c : Config) : Prop where
  width : c.accW = 16
  literal : c.noiseLiteral = .offsetBinary
  primary : ∀ e ∈ c.tSf.all, e.val = 99 ∨ Within 60 e.val
  escape : ∀ e ∈ c.tEsc.all, e.val = 99 ∨ 0 ≤ e.val ∧ e.val + c.escVal ≤ 60

/-- The delta of such tables (R110): 99, a primary value, or a marker with an escape value beyond it. -/
theorem huffSf_value {s : State} (hc : SmallDeltas s.cfg) :
    (huffSf s).post (fun d _ => d = 99 ∨ Within 60 d) fun _ => True := by
  have hsf := walk_value .sf s
  cases h₁ : walk .sf s with
  | ended t =>
    rw [huffSf_ended_sf h₁]
    trivial
  | done v s₁ =>
    rw [h₁] at hsf
    obtain ⟨hcfg, e, he, rfl⟩ := hsf
    by_cases hm : IsMarker s₁.cfg e.val
    · have hesc := walk_value .esc s₁
      cases h₂ : walk .esc s₁ with
      | ended t =>
        rw [huffSf_ended_esc h₁ hm h₂]
        trivial
      | done w s₂ =>
        rw [h₂] at hesc
        obtain ⟨-, x, hx, rfl⟩ := hesc
        rw [huffSf_marker h₁ hm h₂]
        rw [hcfg] at hm hx ⊢
        have hval := hc.escape x hx
        simp only [returnDelta, Micro.post_done, Within, IsMarker] at hm ⊢
        split_ifs <;> omega
    · rw [huffSf_plain h₁ hm]
      exact hc.primary e he

/-! ### The baselines stay within a bound -/

/-- The room that the noise baseline leaves for the literal, until the first NOISE band has taken it
(R68, R123). -/
def literalRoom (s : State) : Int := if s.noisePcmFlag = some false then 0 else 256

/-- The baselines lie within `b`, and nothing has been refused for an overflow. -/
structure Bounded (b : Int) (s : State) : Prop where
  tables : SmallDeltas s.cfg
  accepted : s.refused ≠ some .accOverflow
  scale : ∀ v, s.scaleFactor = some v → Within b v
  position : ∀ v, s.isPosition = some v → Within b v
  noise : ∀ v, s.noiseEnergy = some v → Within (b - literalRoom s) v

/-- The baselines stay within `b` if `m` completes, and no overflow ends it. -/
def BoundedEnd (b : Int) (m : Micro Unit) : Prop :=
  m.post (fun _ => Bounded b) fun t => t.refused ≠ some .accOverflow

section
variable {b b' d v : Int} {s : State} {use : Int → State → Micro Unit}

theorem Within.mono (h : Within b v) (hb : b ≤ b') : Within b' v := by
  simp only [Within] at *
  omega

theorem Within.add (h : Within b v) (hd : Within 60 d) : Within (b + 60) (v + d) := by
  simp only [Within] at *
  omega

theorem Bounded.mono (h : Bounded b s) (hb : b ≤ b') : Bounded b' s :=
  ⟨h.tables, h.accepted, fun v hv => (h.scale v hv).mono hb, fun v hv => (h.position v hv).mono hb,
    fun v hv => (h.noise v hv).mono (Int.sub_le_sub_right hb _)⟩

theorem need_boundedEnd {α : Type} {r : Option α} {n : RegName} {f : α → State → Micro Unit}
    (hs : s.refused ≠ some .accOverflow) (h : ∀ a, r = some a → BoundedEnd b (f a s)) :
    BoundedEnd b ((need r n s).andThen f) := by
  rw [BoundedEnd, Micro.post_andThen, need_post]
  exact ⟨h, fun _ => hs⟩

theorem writeElement_boundedEnd (h : Bounded b s) (v : Int) : BoundedEnd b (writeElement v s) := by
  obtain ⟨htab, hacc, hscale, hpos, hnoise⟩ := h
  exact writeElement_post v s _ _ (fun _ _ _ => ⟨htab, hacc, hscale, hpos, hnoise⟩) (fun _ => hacc)
    fun _ _ _ => by simp

theorem conceal_boundedEnd (h : Bounded b s) : BoundedEnd b (conceal s) := by
  rw [BoundedEnd, conceal, Micro.post_andThen]
  refine Micro.post_mono (writeElement_boundedEnd h 0) (fun _ t ht => ?_) fun _ ht => ht
  obtain ⟨htab, hacc, hscale, hpos, hnoise⟩ := ht
  exact ⟨htab, hacc, hscale, hpos, hnoise⟩

/-- R132: what lies within 32767 fits 16 bits. -/
theorem newBaseline_boundedEnd (hs : SmallDeltas s.cfg) (hv : Within 32767 v) (h : BoundedEnd b (use v s)) :
    BoundedEnd b ((newBaseline v s).andThen use) := by
  have hfit : accFits s.cfg v = true := by
    rw [accFits, hs.width, decide_eq_true_iff]
    simp only [Within] at hv
    omega
  rwa [newBaseline_fits v s hfit, Micro.andThen_done]

theorem takeDelta_bounded (h : Bounded b s) :
    (takeDelta s).post (fun d t => Bounded b t ∧ (d = 99 ∨ Within 60 d))
      fun t => t.refused ≠ some .accOverflow := by
  have hval := huffSf_value h.tables
  have hframe := huffSf_frame s
  obtain ⟨htab, hacc, hscale, hpos, hnoise⟩ := h
  rw [takeDelta, Micro.post_andThen]
  cases hhuff : huffSf s with
  | done d t =>
    rw [hhuff] at hval hframe
    obtain ⟨⟨_, _, _, _, _, rfl, -, -⟩, -⟩ := hframe
    exact ⟨⟨htab, hacc, hscale, hpos, hnoise⟩, hval⟩
  | ended t =>
    rw [hhuff] at hframe
    obtain ⟨_, x, ⟨_, _, _, _, _, rfl, -, -⟩, rfl⟩ := hframe
    exact hacc

theorem usePosition_boundedEnd (h : Bounded b s) (hv : Within b v) : BoundedEnd b (usePosition v s) := by
  obtain ⟨htab, hacc, hscale, -, hnoise⟩ := h
  exact writeElement_boundedEnd (s := { s with isPosition := some v })
    ⟨htab, hacc, hscale, fun _ hw => Option.some.inj hw ▸ hv, hnoise⟩ v

theorem useNoise_boundedEnd (h : Bounded b s) (hv : Within (b - literalRoom s) v) :
    BoundedEnd b (useNoise v s) := by
  obtain ⟨htab, hacc, hscale, hpos, -⟩ := h
  exact writeElement_boundedEnd (s := { s with noiseEnergy := some v })
    ⟨htab, hacc, hscale, hpos, fun _ hw => Option.some.inj hw ▸ hv⟩ v

theorem useScale_boundedEnd (h : Bounded b s) (hv : Within b v) : BoundedEnd b (useScale v s) := by
  obtain ⟨htab, hacc, -, hpos, hnoise⟩ := h
  unfold useScale
  split
  · exact hacc
  · exact writeElement_boundedEnd (s := { s with scaleFactor := some v })
      ⟨htab, hacc, fun _ hw => Option.some.inj hw ▸ hv, hpos, hnoise⟩ v

/-- A band with a baseline moves it by at most 60. -/
theorem baselineBand_boundedEnd {baseline : State → Option Int} {name : RegName} (h : Bounded b s)
    (huse : ∀ t old d, Bounded b t → baseline t = some old → Within 60 d →
      Within 32767 (old + d) ∧ BoundedEnd (b + 60) (use (old + d) t)) :
    BoundedEnd (b + 60) (baselineBand baseline name use s) := by
  rw [BoundedEnd, baselineBand, Micro.post_andThen]
  refine Micro.post_mono (takeDelta_bounded h) ?_ fun _ ht => ht
  rintro d t ⟨ht, hd⟩
  split
  · exact conceal_boundedEnd (ht.mono (by omega))
  · next hne =>
    rw [isNomatch, decide_eq_true_iff] at hne
    refine need_boundedEnd ht.accepted fun old hold => ?_
    obtain ⟨hfit, hend⟩ := huse t old d ht hold (hd.resolve_left hne)
    exact newBaseline_boundedEnd ht.tables hfit hend

theorem bandPosition_boundedEnd (h : Bounded b s) (hb : b + 60 ≤ 32767) :
    BoundedEnd (b + 60) (bandPosition s) :=
  baselineBand_boundedEnd h fun t old d ht hold hd =>
    have hsum := (ht.position old hold).add hd
    ⟨hsum.mono hb, usePosition_boundedEnd (ht.mono (by omega)) hsum⟩

theorem bandSpectral_boundedEnd (h : Bounded b s) (hb : b + 60 ≤ 32767) :
    BoundedEnd (b + 60) (bandSpectral s) :=
  baselineBand_boundedEnd h fun t old d ht hold hd =>
    have hsum := (ht.scale old hold).add hd
    ⟨hsum.mono hb, useScale_boundedEnd (ht.mono (by omega)) hsum⟩

theorem literalRoom_nonneg (s : State) : 0 ≤ literalRoom s := by
  unfold literalRoom
  split <;> decide

theorem bandNoiseDpcm_boundedEnd (h : Bounded b s) (hb : b + 60 ≤ 32767) :
    BoundedEnd (b + 60) (bandNoiseDpcm s) :=
  baselineBand_boundedEnd h fun t old d ht hold hd =>
    have hsum := (ht.noise old hold).add hd
    have hroom := literalRoom_nonneg t
    ⟨hsum.mono (by omega), useNoise_boundedEnd (ht.mono (by omega)) (hsum.mono (by omega))⟩

/-- The first NOISE band uses up the room for the literal, which lies in -256 to 255 (R68, R123). -/
theorem bandNoisePcm_boundedEnd (h : Bounded b s) (hfirst : s.noisePcmFlag = some true)
    (hb : b + 60 ≤ 32767) : BoundedEnd (b + 60) (bandNoisePcm s) := by
  have hroom : literalRoom s = 256 := by simp [literalRoom, hfirst]
  have hs : Bounded b { s with noisePcmFlag := some false } := by
    obtain ⟨htab, hacc, hscale, hpos, hnoise⟩ := h
    exact ⟨htab, hacc, hscale, hpos, fun v hv => (hnoise v hv).mono (by rw [hroom]; simp [literalRoom])⟩
  refine need_boundedEnd hs.accepted fun old hold => need_boundedEnd hs.accepted fun raw _ => ?_
  have hsum : Within b (old + noiseLiteralOf s.cfg.noiseLiteral raw) := by
    have hold := h.noise old hold
    have hraw := raw.isLt
    rw [hroom] at hold
    simp only [h.tables.literal, noiseLiteralOf, Within] at hold ⊢
    omega
  exact newBaseline_boundedEnd hs.tables (hsum.mono (by omega))
    (useNoise_boundedEnd (hs.mono (by omega)) (hsum.mono (by simp [literalRoom])))

/-- A band moves each baseline by at most 60, the room for the literal apart (R118). -/
theorem bandStep_boundedEnd (h : Bounded b s) (hb : b + 60 ≤ 32767) : BoundedEnd (b + 60) (bandStep s) := by
  have hzero : BoundedEnd (b + 60) (writeElement 0 s) := writeElement_boundedEnd (h.mono (by omega)) 0
  refine need_boundedEnd h.accepted fun d _ => ?_
  split
  · exact hzero
  · refine need_boundedEnd h.accepted fun p _ => need_boundedEnd h.accepted fun cb _ => ?_
    split_ifs
    · exact hzero
    · exact bandPosition_boundedEnd h hb
    · exact bandPosition_boundedEnd h hb
    · refine need_boundedEnd h.accepted fun first hfirst => ?_
      split
      · next htrue => exact bandNoisePcm_boundedEnd h (htrue ▸ hfirst) hb
      · exact bandNoiseDpcm_boundedEnd h hb
    · exact h.accepted
    · exact bandSpectral_boundedEnd h hb

end

/-! ### The loop -/

/-- Between two bands only the pointer is written. -/
theorem bounded_pointer {b : Int} {s : State} (h : Bounded b s) (p : Option BandPtr) :
    Bounded b { s with pc := p } := by
  obtain ⟨htab, hacc, hscale, hpos, hnoise⟩ := h
  exact ⟨htab, hacc, hscale, hpos, hnoise⟩

theorem loopTest_bounded {b : Int} {s : State} (h : Bounded b s) :
    (loopTest s).post (fun _ => Bounded b) fun t => t.refused ≠ some .accOverflow := by
  simp only [loopTest, Micro.post_andThen, need_post]
  refine ⟨fun p _ => ⟨fun groups _ => ⟨fun bands _ => ?_, fun _ => h.accepted⟩, fun _ => h.accepted⟩,
    fun _ => h.accepted⟩
  split_ifs
  · exact bounded_pointer h _
  · exact h
  · exact h

theorem advancePc_bounded {b : Int} {s : State} (h : Bounded b s) : BoundedEnd b (advancePc s) :=
  need_boundedEnd h.accepted fun _ _ => need_boundedEnd h.accepted fun _ _ => bounded_pointer h _

/-- `n` rounds move the baselines by at most `60 n`. -/
theorem bandLoop_bounded (n : Nat) {b : Int} {s : State} (h : Bounded b s) (hn : b + 60 * n ≤ 32767) :
    BoundedEnd (b + 60 * n) (bandLoop n s) := by
  induction n generalizing b s with
  | zero => exact h.mono (by omega)
  | succ n ih =>
    rw [Nat.cast_succ] at hn ⊢
    rw [BoundedEnd, bandLoop, Micro.post_andThen]
    refine Micro.post_mono (loopTest_bounded h) (fun more s₁ h₁ => ?_) fun _ ht => ht
    split
    · rw [Micro.post_andThen]
      refine Micro.post_mono (bandStep_boundedEnd h₁ (by omega)) (fun _ s₂ h₂ => ?_) fun _ ht => ht
      rw [Micro.post_andThen]
      refine Micro.post_mono (advancePc_bounded h₂) (fun _ s₃ h₃ => ?_) fun _ ht => ht
      rw [show b + 60 * ((n : Int) + 1) = b + 60 + 60 * n by omega]
      exact ih h₃ (by omega)
    · exact h₁.mono (by omega)

/-! ### A `CMD_DEC` -/

theorem smallDeltas_of_wf {c : Config} (hwf : c.wf = true) (hw : c.accW = 16)
    (hl : c.noiseLiteral = .offsetBinary)
    (hsf : ∀ e ∈ c.tSf.entries, e.val = 99 ∨ -60 ≤ e.val ∧ e.val ≤ 60)
    (hesc : ∀ e ∈ c.tEsc.entries, e.val = 99 ∨ e.val + c.escVal ≤ 60) : SmallDeltas c := by
  simp only [Config.wf, Rom.wf, Rom.sentinelOk, Rom.nonNegative, Bool.and_eq_true, decide_eq_true_eq,
    List.all_eq_true] at hwf
  obtain ⟨⟨⟨⟨hwsf, hwesc⟩, hpos⟩, -⟩, -⟩ := hwf
  obtain ⟨⟨⟨⟨⟨⟨⟨-, hsent, -⟩, -⟩, -⟩, -⟩, -⟩, -⟩, -⟩ := hwsf
  obtain ⟨⟨⟨⟨⟨⟨⟨-, hsent', -⟩, -⟩, -⟩, -⟩, -⟩, -⟩, -⟩ := hwesc
  refine ⟨hw, hl, fun e he => ?_, fun e he => ?_⟩
  · rcases List.mem_append.1 he with he | he
    · exact hsf e he
    · exact .inl (List.mem_singleton.1 he ▸ hsent)
  · rcases List.mem_append.1 he with he' | he'
    · exact (hesc e he').imp_right fun h => ⟨hpos e he, h⟩
    · exact .inl (List.mem_singleton.1 he' ▸ hsent')

/-- A run starts with baselines that leave room for the literal and 408 deltas (R117). -/
theorem RunStarts.bounded {s s₀ : State} {groups : BitVec 4} {bands : BitVec 6} {gain : Int}
    (h : RunStarts s groups bands gain s₀) (hc : SmallDeltas s.cfg) (hr : s.refused ≠ some .accOverflow)
    (hgain : 0 ≤ gain ∧ gain ≤ 255) : Bounded 511 s₀ := by
  obtain ⟨m, a, b, rfl⟩ := h.start
  refine ⟨hc, hr, fun v hv => ?_, fun v hv => ?_, fun v hv => ?_⟩
  · obtain rfl : gain = v := Option.some.inj hv
    simp only [Within]
    omega
  · obtain rfl : 0 = v := Option.some.inj hv
    exact ⟨by decide, by decide⟩
  · obtain rfl : gain - 90 = v := Option.some.inj hv
    have hroom : ∀ t, literalRoom (startRun t gain) = 256 := fun _ => rfl
    simp only [Within, hroom]
    omega

/-- Settles O45: 408 deltas of 60, the gain and the literal stay within 16 bits. -/
theorem defaultWidthsNeverOverflow : Obligations.DefaultWidthsNeverOverflow := by
  intro s t gain hidle hd hm hwf hw hmax hlit hgain h0 h255 hsf hesc hexec
  obtain rfl : (decBody s).state.leaveDec = t :=
    Host.Outcome.next.inj ((exec_cmdDec_accepted hidle hd).symm.trans hexec)
  have hr : s.refused ≠ some .accOverflow := by
    intro hr
    rw [State.marked, hr, Option.isSome_some, Bool.or_true] at hm
    cases hm
  refine Micro.post_state (P := fun t => t.refused ≠ some .accOverflow) (decBody_post s _ _ ?_ ?_)
  · rintro t - (ht | ht) <;> rw [ht]
    · exact hr
    · simp
  · intro groups bands gain' s₀ hs
    obtain rfl := Option.some.inj (hgain.symm.trans hs.gainIn)
    have hbands : groups.toNat * bands.toNat ≤ 408 := (Nat.mul_le_mul hs.fits.1 hs.fits.2).trans hmax
    have hloop := bandLoop_bounded (groups.toNat * bands.toNat + 1)
      (hs.bounded (smallDeltas_of_wf hwf hw hlit hsf hesc) hr ⟨h0, h255⟩) (by omega)
    rw [hs.decBody_eq, Micro.post_andThen]
    exact Micro.post_mono hloop (fun _ t ht => ht.accepted) fun _ ht => ht

end Sys2Proof.Machine
end

/-! ## The host's acts, and the commands that are refused (R136 to R138, R141, R142, R172) -/

section
namespace Sys2Proof.Machine

open Sys2Proof.Claims

/-! ### Commands that are not acceptable -/

/-- R142: a `CMD_DEC` before any header is refused. -/
theorem exec_cmdDec_beforeHeader {s : State} (hp : s.phase = .idle) (hd : s.hdrDone = false) :
    exec .cmdDec s = .next (s.refuse .decodeBeforeHeader) := by
  change (cmdDec s).outcome = _
  rw [cmdDec, if_pos hp, if_neg (Bool.eq_false_iff.1 hd), Micro.outcome_eq, Micro.state_ended]

/-- Settles O38: both commands test the phase, and `CMD_DEC` then tests that a header was parsed. -/
theorem commandsRefusedWhenNotAcceptable : Obligations.CommandsRefusedWhenNotAcceptable := fun _ =>
  ⟨fun hp => ⟨exec_command_busy 0#1 hp, exec_command_busy 1#1 hp⟩, exec_cmdDec_beforeHeader⟩

/-- Settles O52: the step of an idle unit without an act, and of a busy one with a command. -/
theorem idleWaitsAndBusyRefuses : Obligations.IdleWaitsAndBusyRefuses := fun _ hm =>
  ⟨step_idle_waits hm, fun _ _ => step_busy_command hm⟩

/-! ### The acts of the host, case by case -/

section
variable {s : State}

/-- R137: the codebook element is written, and no other. -/
theorem hostLoadSfbCb_exists (s : State) {g sfb : Nat} (h : elementExists s.cfg g sfb = true)
    (v : BitVec 4) :
    hostLoadSfbCb g sfb v s = { s with mem := { s.mem with sfbCb := cellWrite g sfb v s.mem.sfbCb } } := by
  rw [hostLoadSfbCb, if_pos h]

/-- An element that does not exist is not written (log entry 9). -/
theorem hostLoadSfbCb_missing (s : State) {g sfb : Nat} (h : elementExists s.cfg g sfb = false)
    (v : BitVec 4) :
    hostLoadSfbCb g sfb v s = s.refuse .noSuchElement := by
  rw [hostLoadSfbCb, if_neg (Bool.eq_false_iff.1 h)]

/-- R138: `main` is bound at a position inside the bit string, its end included. -/
theorem hostBind_inside {buf : Bits} {pos : Nat} (h : pos ≤ buf.length) :
    hostBind buf pos s = { s with main := some ⟨buf, pos⟩ } := by
  rw [hostBind, if_pos h]

theorem hostBind_outside {buf : Bits} {pos : Nat} (h : buf.length < pos) :
    hostBind buf pos s = s.refuse .bindOutOfRange := by
  rw [hostBind, if_neg h.not_ge]

/-- R41, R138: the same inside the first bits of a byte buffer. -/
theorem hostBindBytes_inside {bytes : List Byte} {len pos : Nat} (hpos : pos ≤ len)
    (hlen : len ≤ 8 * bytes.length) :
    hostBindBytes bytes len pos s = { s with main := some ⟨bitsOfBytes bytes len, pos⟩ } := by
  rw [hostBindBytes, if_pos hlen, hostBind_inside (by rwa [length_bitsOfBytes])]

theorem hostBindBytes_outside {bytes : List Byte} {len pos : Nat}
    (h : len < pos ∨ 8 * bytes.length < len) :
    hostBindBytes bytes len pos s = s.refuse .bindOutOfRange := by
  unfold hostBindBytes
  split
  · next hlen => exact hostBind_outside (by rw [length_bitsOfBytes]; omega)
  · rfl

/-- R141: outside `IDLE` nothing can be read. -/
theorem hostRead_busy (hp : s.phase ≠ .idle) : hostRead s = none := by
  unfold hostRead
  split
  · next h => exact absurd h hp
  all_goals rfl

end

/-! ### What a micro-operation leaves to the host -/

/-- The inputs, what the host does next and the bits of `main` are the same. -/
def SameInputPart (s t : State) : Prop := inputPart t = inputPart s

theorem frameRel_sameInputPart : FrameRel SameInputPart := frameRel_agree inputPart

theorem CommandEdits.sameInputPart {s t : State} (h : CommandEdits s t) : SameInputPart s t :=
  frameRel_sameInputPart.of_chain (fun _ _ => CommandEdit.inputPart_eq) h

theorem need_sameInputPart {α : Type} (r : Option α) (n : RegName) (s : State) :
    (need r n s).within SameInputPart s :=
  need_within frameRel_sameInputPart (fun _ _ => rfl) r n s

theorem afterEscapes_sameInputPart (s : State) : (afterEscapes s).within SameInputPart s := by
  refine Micro.within_andThen frameRel_sameInputPart (need_sameInputPart _ _ s) fun noise s₁ => ?_
  split <;> rfl

theorem afterField_sameInputPart (f : HdrStep) (s : State) : (afterField f s).within SameInputPart s := by
  cases f with
  | lenSf =>
    refine Micro.within_andThen frameRel_sameInputPart (need_sameInputPart _ _ s) fun noise s₁ => ?_
    split <;> rfl
  | escPresent =>
    refine Micro.within_andThen frameRel_sameInputPart (need_sameInputPart _ _ s) fun escapes s₁ => ?_
    split
    · rfl
    · exact afterEscapes_sameInputPart s₁
  | lenEsc => exact afterEscapes_sameInputPart s
  | sfc | rgg | noiseNrg | noiseLastpos => rfl

theorem toBandOrEnd_sameInputPart (s : State) : (toBandOrEnd s).within SameInputPart s := by
  refine Micro.within_andThen frameRel_sameInputPart
    (Micro.within_mono (loopTest_edits s) CommandEdits.sameInputPart) fun more s₁ => ?_
  split <;> rfl

theorem afterBand_sameInputPart (s : State) : (afterBand s).within SameInputPart s := by
  unfold afterBand
  split
  · rfl
  · exact Micro.within_andThen frameRel_sameInputPart
      (Micro.within_mono (advancePc_edits s) CommandEdits.sameInputPart) fun _ => toBandOrEnd_sameInputPart

/-- What follows an operation writes the sequencer's registers and the band pointer only. -/
theorem afterOp_sameInputPart (s : State) : (afterOp s).within SameInputPart s := by
  unfold afterOp
  split
  · rfl
  · exact afterField_sameInputPart _ s
  · rfl
  · rfl
  · exact toBandOrEnd_sameInputPart s
  · exact afterBand_sameInputPart s
  · rfl

/-- The end of an operation is a next state, whatever happens in it (R152, R155, R156). -/
theorem exec_next (i : Instr) (s : State) : ∃ t, exec i s = .next t := by
  cases i with
  | _ => exact ⟨_, rfl⟩

theorem continueWith_next_inputPart (s : State) :
    ∃ t, continueWith (.next s) = .next t ∧ SameInputPart s t := by
  cases hm : s.marked with
  | true => exact ⟨s, by rw [continueWith, if_pos hm], rfl⟩
  | false => exact ⟨_, continueWith_unmarked hm, Micro.within_state (afterOp_sameInputPart s)⟩

/-- An operation that cannot be selected ends the micro-operation (R14). -/
theorem microStep_of_fetchOp_ended {s t : State} (h : fetchOp s = .ended t) : microStep s = .next t := by
  unfold microStep
  rw [h]

/-- A micro-operation ends in a next state and writes nothing of what only the host writes. -/
theorem microStep_next_inputPart (s : State) : ∃ t, microStep s = .next t ∧ SameInputPart s t := by
  have hfetch := fetchOp_post s
  cases hf : fetchOp s with
  | ended t =>
    rw [hf] at hfetch
    obtain ⟨r, rfl⟩ := hfetch
    exact ⟨_, microStep_of_fetchOp_ended hf, rfl⟩
  | done i t =>
    rw [hf] at hfetch
    obtain ⟨rfl, -⟩ := hfetch
    obtain ⟨u, hu⟩ := exec_next i t
    obtain ⟨v, hv, hsame⟩ := continueWith_next_inputPart u
    exact ⟨v, by rw [microStep_of_fetchOp hf, hu, hv], hsame.trans (exec_inputPart hu)⟩

/-- Settles O53: in `IDLE` the step is the host's act; in another phase it is a micro-operation, which
leaves the host's acts waiting and what they would write as it is. -/
theorem hostActsOnlyWhenIdle : Obligations.HostActsOnlyWhenIdle := by
  intro s rest hm
  refine ⟨fun hp => ?_, fun hp => ⟨hostRead_busy hp, fun hh => ?_⟩⟩
  · have acts {op : HostOp} (hh : s.host = op :: rest) : step s = hostAct op { s with host := rest } :=
      step_idle_act hm hp hh
    have becomes {op : HostOp} {t : State} (hh : s.host = op :: rest)
        (h : hostAct op { s with host := rest } = .next t) : step s = .next t := (acts hh).trans h
    refine ⟨fun v => acts, fun v => acts, fun v => acts, fun v => acts, fun v => acts, ?_, ?_, ?_, ?_⟩
    · exact fun g sfb v hh => ⟨fun hx => ⟨cellWrite g sfb v s.mem.sfbCb,
          becomes hh (congrArg _ (hostLoadSfbCb_exists { s with host := rest } hx v)),
          cellRead_cellWrite_same g sfb v _, cellRead_cellWrite_other g sfb v _⟩,
        fun hx => becomes hh (congrArg _ (hostLoadSfbCb_missing { s with host := rest } hx v))⟩
    · exact fun buf pos hh => ⟨fun hin => becomes hh (congrArg _ (hostBind_inside hin)),
        fun hout => becomes hh (congrArg _ (hostBind_outside hout))⟩
    · exact fun bytes len pos hh =>
        ⟨fun hpos hlen => becomes hh (congrArg _ (hostBindBytes_inside hpos hlen)),
          fun hout => becomes hh (congrArg _ (hostBindBytes_outside hout))⟩
    · rw [hostRead, hp]
  · obtain ⟨t, ht, hsame⟩ := microStep_next_inputPart s
    simp only [SameInputPart, inputPart, Prod.mk.injEq] at hsame
    obtain ⟨hcfg, hshort, hnoise, hgroups, hbands, hgain, hcb, hhost, hmain⟩ := hsame
    exact ⟨t, (step_quiet ⟨hm, hp, hh⟩).trans ht, hhost,
      ⟨hcfg, hshort, hnoise, hgroups, hbands, hgain, hcb⟩, hmain⟩

end Sys2Proof.Machine
end

/-! ## A command in micro-operations is the command (R145, R182, R183) -/

section
namespace Sys2Proof.Machine

open Sys2Proof.Claims

/-! ### Steps that reach a state -/

/-- Some number of steps, at most `n`, lead from `s` to `t`. -/
def Reaches (n : Nat) (s t : State) : Prop := ∃ k, k ≤ n ∧ Host.Core.run core k s = .next t

theorem Reaches.refl (n : Nat) (s : State) : Reaches n s s := ⟨0, Nat.zero_le n, rfl⟩

theorem Reaches.mono {n m : Nat} {s t : State} (h : Reaches n s t) (hnm : n ≤ m) : Reaches m s t := by
  obtain ⟨k, hk, hrun⟩ := h
  exact ⟨k, hk.trans hnm, hrun⟩

theorem run_of_step {M : Host.Core} {s s' : M.State} (h : M.step s = .next s') (k : Nat) :
    M.run (k + 1) s = M.run k s' := by
  rw [Host.Core.run, h]

theorem Reaches.step {n : Nat} {s s' t : State} (hs : step s = .next s') (h : Reaches n s' t) :
    Reaches (n + 1) s t := by
  obtain ⟨k, hk, hrun⟩ := h
  exact ⟨k + 1, Nat.succ_le_succ hk, (run_of_step (M := core) hs k).trans hrun⟩

/-! ### Where the unit stands between two micro-operations -/

/-- What decides whether a step is a micro-operation of the command in progress (R29, R142). -/
def control (s : State) := (s.phase, s.host, s.marked)

/-- The unit stands at `ph`, unmarked, and the host issues no command. -/
def StandsAt (ph : Phase) (s : State) : Prop := control s = (ph, [], false)

theorem standsAt_iff {ph : Phase} {s : State} :
    StandsAt ph s ↔ s.phase = ph ∧ s.host = [] ∧ s.marked = false := by
  simp only [StandsAt, control, Prod.mk.injEq]

theorem StandsAt.step_eq {ph : Phase} {s : State} (h : StandsAt ph s) (hph : ph ≠ .idle) :
    step s = microStep s := by
  obtain ⟨rfl, hh, hm⟩ := standsAt_iff.1 h
  exact step_quiet ⟨hm, hph, fun w rest => by rw [hh]; nofun⟩

/-- A change of phase moves the unit. -/
theorem StandsAt.move {ph : Phase} {s : State} (h : StandsAt ph s) (ph' : Phase) :
    StandsAt ph' { s with phase := ph' } := by
  obtain ⟨-, hh, hm⟩ := standsAt_iff.1 h
  exact standsAt_iff.2 ⟨rfl, hh, hm⟩

theorem StandsAt.stay {ph : Phase} {s : State} (h : StandsAt ph s) : { s with phase := ph } = s := by
  obtain ⟨rfl, -, -⟩ := standsAt_iff.1 h
  rfl

/-- An operation that, when it completes, leaves the unit standing where it is; `E` says how it is ended
early. -/
def Steady {α : Type} (E : State → Prop) (s : State) (m : Micro α) : Prop :=
  m.post (fun _ t => control t = control s) E

/-- A mark is set (R155, R156). -/
def Marked (s : State) : Prop := s.marked = true

theorem Steady.andThen {α β : Type} {E : State → Prop} {s : State} {m : Micro α}
    {f : α → State → Micro β} (h : Steady E s m) (hf : ∀ a t, Steady E t (f a t)) :
    Steady E s (m.andThen f) := by
  cases m with
  | ended t => exact h
  | done a t => exact Micro.post_mono (hf a t) (fun _ _ hu => hu.trans h) fun _ hu => hu

theorem need_steady {α : Type} (r : Option α) (n : RegName) (s : State) :
    Steady Marked s (need r n s) :=
  (need_post _ _ _ _ _).2 ⟨fun _ _ => rfl, fun _ => marked_raiseFault _ _⟩

/-- The step of an operation that only a mark can end early: the operation, and then what follows it. -/
theorem continueWith_steady {s : State} {m : Micro Unit} (hs : s.marked = false)
    (hm : Steady Marked s m) : continueWith m.outcome = .next (m.andThen fun _ => afterOp).state := by
  cases m with
  | ended t =>
    have ht : t.marked = true := hm
    rw [Micro.outcome_eq, continueWith, Micro.state_ended, if_pos ht, Micro.andThen_ended,
      Micro.state_ended]
  | done a t =>
    have ht : control t = control s := hm
    simp only [control, Prod.mk.injEq] at ht
    exact continueWith_unmarked (ht.2.2.trans hs)

end Sys2Proof.Machine
end

/-! ## `CMD_HDR`, field by field (R85, R139) -/

section
namespace Sys2Proof.Machine

/-! ### One field -/

/-- What the parse runs at a field, the read of `is_eight_short` at the length field included (R85). -/
def parseAt : HdrStep → State → Micro Unit
  | .lenSf => parseLenSf
  | f => fieldParse false f

theorem readMain_steady (n : Nat) (s : State) : Steady Marked s (readMain n s) :=
  readMain_post n s _ _ (fun _ _ _ _ _ => rfl) (fun _ => marked_raiseFault _ _)
    fun _ _ _ => marked_raiseFault _ _

theorem readMainBit_steady (s : State) : Steady Marked s (readMainBit s) :=
  (readMain_steady 1 s).andThen fun _ _ => rfl

theorem fieldParse_steady (short : Bool) (f : HdrStep) (s : State) :
    Steady Marked s (fieldParse short f s) := by
  cases f with
  | sfc => exact (readMainBit_steady s).andThen fun _ _ => rfl
  | rgg => exact (readMain_steady 8 s).andThen fun _ _ => rfl
  | lenSf => exact (readMain_steady _ s).andThen fun _ _ => rfl
  | noiseNrg =>
    refine (readMain_steady noiseBits s).andThen fun v t => ?_
    refine Steady.andThen (need_steady _ _ { t with dpcmNoiseNrg := some (BitVec.ofNat 9 v) })
      fun len u => ?_
    split
    · exact marked_refuse _ _
    · rfl
  | escPresent => exact (readMainBit_steady s).andThen fun _ _ => rfl
  | lenEsc => exact (readMain_steady 8 s).andThen fun _ _ => rfl
  | noiseLastpos => exact (readMain_steady 9 s).andThen fun _ _ => rfl

theorem parseAt_of_ne {f : HdrStep} (h : f ≠ .lenSf) : parseAt f = fieldParse false f := by
  cases f with
  | lenSf => exact absurd rfl h
  | _ => rfl

theorem parseAt_steady (f : HdrStep) (s : State) : Steady Marked s (parseAt f s) := by
  by_cases hf : f = .lenSf
  · subst hf
    refine (need_steady _ _ s).andThen fun short t => ?_
    split
    · exact fieldParse_steady true .lenSf t
    · exact fieldParse_steady false .lenSf t
  · rw [parseAt_of_ne hf]
    exact fieldParse_steady false f s

/-- The operation at a field other than the length is selected without reading a register (R85). -/
theorem fetchOp_field {f : HdrStep} {s : State} (hp : s.phase = .hdr f) (hf : f ≠ .lenSf) :
    fetchOp s = .done (headerOp false f) s := by
  cases f with
  | lenSf => exact absurd rfl hf
  | _ => simp only [fetchOp, hp]

/-- R85: the micro-operation at a field runs what the parse runs there. -/
theorem microStep_field {f : HdrStep} {s : State} (hp : s.phase = .hdr f) :
    microStep s = continueWith (parseAt f s).outcome := by
  by_cases hf : f = .lenSf
  · subst hf
    rw [parseAt]
    cases he : s.isEightShort with
    | none =>
      have hfetch : fetchOp s = .ended (s.raiseFault (.unwrittenRead .isEightShort)) := by
        simp only [fetchOp, hp, he, need_none, Micro.andThen_ended]
      rw [parseLenSf_unwritten he, microStep_of_fetchOp_ended hfetch]
      rfl
    | some short =>
      rw [parseLenSf_eq he, ← exec_headerOp_eq]
      exact microStep_of_fetchOp (fetchOp_header hp he)
  · rw [parseAt_of_ne hf, ← exec_headerOp_eq]
    exact microStep_of_fetchOp (fetchOp_field hp hf)

/-- A field of the stepped parse and the same field of the whole one leave the rest to be compared. -/
theorem reaches_field {n : Nat} {f : HdrStep} {s : State} {rest : State → Micro Unit}
    (hs : StandsAt (.hdr f) s)
    (hrest : ∀ t, StandsAt (.hdr f) t → Reaches n (afterField f t).state (rest t).state) :
    Reaches (n + 1) s ((parseAt f s).andThen fun _ => rest).state := by
  obtain ⟨hp, -, hm⟩ := standsAt_iff.1 hs
  have hsteady := parseAt_steady f s
  have hstep := (hs.step_eq nofun).trans
    ((microStep_field hp).trans (continueWith_steady hm hsteady))
  refine Reaches.step hstep ?_
  cases hfield : parseAt f s with
  | ended t => exact Reaches.refl n t
  | done a t =>
    rw [hfield] at hsteady
    have ht : StandsAt (.hdr f) t := hsteady.trans hs
    rw [Micro.andThen_done, Micro.andThen_done, afterOp_hdr (standsAt_iff.1 ht).1]
    exact hrest t ht

/-! ### The fields after the escape flag, and after the length -/

/-- The end of a whole `CMD_HDR` from the choice of its last field on (R85, R139). -/
def lastPart (s : State) : Micro Unit :=
  (need s.noiseUsed .noiseUsed s).andThen fun noise s =>
  (onlyIf noise (atField .noiseLastpos hdrNoiseLastpos) s).andThen fun _ s => .done () (endHdr s)

/-- The end of a whole `CMD_HDR` from its escape flag on (R85). -/
def escapePart (s : State) : Micro Unit :=
  (atField .escPresent hdrEscPresent s).andThen fun _ s =>
  (need s.sfEscapesPresent .sfEscapesPresent s).andThen fun escapes s =>
  (onlyIf escapes (atField .lenEsc hdrLenEsc) s).andThen fun _ => lastPart

/-- A whole `CMD_HDR` in its parts. -/
theorem cmdHdr_parts {s : State} (hp : s.phase = .idle) :
    cmdHdr s = (atField .sfc hdrSfc s).andThen fun _ s =>
      (atField .rgg hdrRgg s).andThen fun _ s =>
      (atField .lenSf parseLenSf s).andThen fun _ s =>
      (need s.noiseUsed .noiseUsed s).andThen fun noise s =>
      (onlyIf noise (atField .noiseNrg hdrNoiseNrg) s).andThen fun _ => escapePart := by
  simp only [cmdHdr, if_pos hp, hdrParse, Micro.andThen_assoc]
  rfl

theorem reaches_lastPart {f : HdrStep} {s : State} (hs : StandsAt (.hdr f) s) :
    Reaches 1 (afterEscapes s).state (lastPart s).state := by
  unfold afterEscapes lastPart
  cases s.noiseUsed with
  | none => exact Reaches.refl 1 _
  | some noise =>
    cases noise with
    | false => exact Reaches.refl 1 _
    | true =>
      exact reaches_field (rest := fun t => .done () (endHdr t)) (hs.move _) fun _ _ => Reaches.refl 0 _

theorem reaches_escapePart {f : HdrStep} {s : State} (hs : StandsAt (.hdr f) s) :
    Reaches 3 { s with phase := .hdr .escPresent } (escapePart s).state := by
  refine reaches_field (hs.move _) fun t ht => ?_
  unfold afterField
  cases t.sfEscapesPresent with
  | none => exact Reaches.refl 2 _
  | some escapes =>
    cases escapes with
    | false => exact (reaches_lastPart ht).mono (by decide)
    | true => exact reaches_field (ht.move _) fun u hu => reaches_lastPart hu

/-- Settles O57: at each field, and at each read between two fields, the steps and the whole command leave
the same state. -/
theorem steppedCmdHdrIsAtomic : Obligations.SteppedCmdHdrIsAtomic := by
  intro s hp hm hh
  have hs : StandsAt .idle s := standsAt_iff.2 ⟨hp, hh, hm⟩
  change Reaches 7 (beginCommand .cmdHdr s) (cmdHdr s).state
  rw [beginCommand_cmdHdr hp, cmdHdr_parts hp]
  refine reaches_field (hs.move _) fun t ht => ?_
  refine reaches_field (ht.move _) fun u hu => ?_
  refine reaches_field (hu.move _) fun v hv => ?_
  unfold afterField
  cases v.noiseUsed with
  | none => exact Reaches.refl 4 _
  | some noise =>
    cases noise with
    | false => exact (reaches_escapePart hv).mono (by decide)
    | true => exact reaches_field (hv.move _) fun w hw => reaches_escapePart hw

end Sys2Proof.Machine
end

/-! ## The loop of a run does not read the phase (R116 to R128) -/

section
namespace Sys2Proof.Machine

/-- The same end with the unit at another phase. -/
def Micro.atPhase {α : Type} (ph : Phase) : Micro α → Micro α
  | .done a s => .done a { s with phase := ph }
  | .ended s => .ended { s with phase := ph }

/-- What ends a band early: a mark, or an abort (R152, R155, R156). -/
def BandStops (s : State) : Prop := s.marked = true ∨ s.aborted = true

/-- A part of a run does the same at every phase, and completes without a mark. -/
structure BandPart {α : Type} (op : State → Micro α) : Prop where
  atPhase : ∀ s ph, op { s with phase := ph } = (op s).atPhase ph
  steady : ∀ s, Steady BandStops s (op s)

section
variable {α β : Type}

theorem BandPart.andThen {op : State → Micro α} {f : α → State → Micro β} (h : BandPart op)
    (hf : ∀ a, BandPart (f a)) : BandPart fun s => (op s).andThen f where
  atPhase s ph := by
    rw [h.atPhase]
    cases op s with
    | done a t => exact (hf a).atPhase t ph
    | ended t => rfl
  steady s := (h.steady s).andThen fun a t => (hf a).steady t

/-- A condition that the phase does not enter into. -/
theorem BandPart.ite {p q : State → Micro α} (c : State → Prop) [DecidablePred c]
    (hc : ∀ s ph, c { s with phase := ph } ↔ c s) (hp : BandPart p) (hq : BandPart q) :
    BandPart fun s => if c s then p s else q s where
  atPhase s ph := by
    simp only [hc]
    split
    · exact hp.atPhase s ph
    · exact hq.atPhase s ph
  steady s := by
    split
    · exact hp.steady s
    · exact hq.steady s

/-- A write that the phase does not enter into, before a part of a run. -/
theorem BandPart.after {op : State → Micro α} (w : State → State)
    (hw : ∀ s ph, w { s with phase := ph } = { w s with phase := ph })
    (hc : ∀ s, control (w s) = control s) (h : BandPart op) : BandPart fun s => op (w s) where
  atPhase s ph := by rw [hw, h.atPhase]
  steady s := Micro.post_mono (h.steady (w s)) (fun _ _ ht => ht.trans (hc s)) fun _ ht => ht

theorem BandPart.done (a : α) : BandPart (.done a) := ⟨fun _ _ => rfl, fun _ => rfl⟩

theorem BandPart.refuse (r : Refusal) : BandPart fun s => (.ended (s.refuse r) : Micro α) :=
  ⟨fun _ _ => rfl, fun s => .inl (marked_refuse s r)⟩

theorem BandPart.abort (c : AbortCode) : BandPart fun s => (.ended (s.abort c) : Micro α) :=
  ⟨fun _ _ => rfl, fun _ => .inr rfl⟩

theorem BandPart.need (r : State → Option α) (hr : ∀ s ph, r { s with phase := ph } = r s)
    (n : RegName) : BandPart fun s => need (r s) n s where
  atPhase s ph := by
    rw [hr]
    cases r s <;> rfl
  steady s := Micro.post_mono (need_steady (r s) n s) (fun _ _ h => h) fun _ => .inl

end

theorem walk_bandPart (x : SubId) : BandPart (walk x) where
  atPhase s ph := by
    have hcur : ({ s with phase := ph } : State).subCursor x = s.subCursor x := by cases x <;> rfl
    unfold walk
    rw [hcur]
    cases x <;> cases walkTable s.cfg.overrunPolicy (romOfSub s.cfg _) (s.subCursor _) <;> rfl
  steady s := walk_post x s _ _ (fun _ _ _ => by cases x <;> rfl) fun _ _ _ => .inl (marked_raiseFault _ _)

theorem returnDelta_bandPart (d : Int) : BandPart (returnDelta d) := ⟨fun _ _ => rfl, fun _ => rfl⟩

/-- The escape lookup of `HUFF_SF`, and what its value makes of the delta (R110). -/
theorem escape_bandPart (d : Int → Int) :
    BandPart fun s => (walk .esc s).andThen fun e s =>
      if isNomatch e then returnDelta noMatch s else returnDelta (d e) s :=
  (walk_bandPart .esc).andThen fun e =>
    .ite (fun _ => isNomatch e = true) (fun _ _ => Iff.rfl) (returnDelta_bandPart _) (returnDelta_bandPart _)

theorem huffSf_bandPart : BandPart huffSf :=
  (walk_bandPart .sf).andThen fun v =>
    .ite (fun s => isPosMarker s.cfg v = true) (fun _ _ => Iff.rfl) (escape_bandPart fun e => v + e) <|
      .ite (fun s => isNegMarker s.cfg v = true) (fun _ _ => Iff.rfl) (escape_bandPart fun e => v - e)
        (returnDelta_bandPart v)

theorem takeDelta_bandPart : BandPart takeDelta :=
  huffSf_bandPart.andThen fun d => (BandPart.done d).after (fun s => { s with t := some d })
    (fun _ _ => rfl) fun _ => rfl

theorem writeElement_bandPart (v : Int) : BandPart (writeElement v) :=
  (BandPart.need State.pc (fun _ _ => rfl) .pc).andThen fun p =>
    .ite (fun s => elementExists s.cfg p.g p.sfb = true) (fun _ _ => Iff.rfl)
      ((BandPart.done ()).after (fun s => { s with
        mem := { s.mem with scaleFactors := cellWrite p.g p.sfb v s.mem.scaleFactors } })
        (fun _ _ => rfl) fun _ => rfl)
      (.refuse .indexRange)

theorem conceal_bandPart : BandPart conceal :=
  (writeElement_bandPart 0).andThen fun _ =>
    (BandPart.done ()).after (fun s => { s with decState := some .concealed }) (fun _ _ => rfl) fun _ => rfl

/-- The sum may depend on the configuration (R68, R132). -/
theorem newBaseline_bandPart (v : Config → Int) : BandPart fun s => newBaseline (v s.cfg) s :=
  .ite (fun s => accFits s.cfg (v s.cfg) = true) (fun _ _ => Iff.rfl)
    ⟨fun _ _ => rfl, fun _ => rfl⟩ (.refuse .accOverflow)

theorem usePosition_bandPart (v : Int) : BandPart (usePosition v) :=
  (writeElement_bandPart v).after (fun s => { s with isPosition := some v }) (fun _ _ => rfl) fun _ => rfl

theorem useNoise_bandPart (v : Int) : BandPart (useNoise v) :=
  (writeElement_bandPart v).after (fun s => { s with noiseEnergy := some v }) (fun _ _ => rfl) fun _ => rfl

theorem useScale_bandPart (v : Int) : BandPart (useScale v) :=
  BandPart.after (fun s => { s with scaleFactor := some v }) (fun _ _ => rfl) (fun _ => rfl) <|
    .ite (fun _ => underflows v = true) (fun _ _ => Iff.rfl) (.abort .scaleFactorUnderflow)
      (writeElement_bandPart v)

theorem baselineBand_bandPart {baseline : State → Option Int} {use : Int → State → Micro Unit}
    (hb : ∀ s ph, baseline { s with phase := ph } = baseline s) (name : RegName)
    (hu : ∀ v, BandPart (use v)) : BandPart (baselineBand baseline name use) :=
  takeDelta_bandPart.andThen fun d =>
    .ite (fun _ => isNomatch d = true) (fun _ _ => Iff.rfl) conceal_bandPart <|
      (BandPart.need baseline hb name).andThen fun _ => (newBaseline_bandPart fun _ => _).andThen hu

theorem bandNoisePcm_bandPart : BandPart bandNoisePcm :=
  BandPart.after (fun s => { s with noisePcmFlag := some false }) (fun _ _ => rfl) (fun _ => rfl) <|
    (BandPart.need State.noiseEnergy (fun _ _ => rfl) .noiseEnergy).andThen fun old =>
      (BandPart.need State.dpcmNoiseNrg (fun _ _ => rfl) .dpcmNoiseNrg).andThen fun raw =>
        (newBaseline_bandPart fun c => old + noiseLiteralOf c.noiseLiteral raw).andThen useNoise_bandPart

/-- Whichever operation the dispatch selects (R118). -/
theorem bandStep_bandPart : BandPart bandStep := by
  refine (BandPart.need State.decState (fun _ _ => rfl) .decState).andThen fun d =>
    .ite (fun _ => d = .concealed) (fun _ _ => Iff.rfl) (writeElement_bandPart 0) <|
      (BandPart.need State.pc (fun _ _ => rfl) .pc).andThen fun p =>
        (BandPart.need (fun s => cellRead p.g p.sfb s.mem.sfbCb) (fun _ _ => rfl) _).andThen fun cb => ?_
  have select {op op' : State → Micro Unit} (v : BitVec 4) (h : BandPart op) (h' : BandPart op') :
      BandPart fun s => if cb = v then op s else op' s :=
    .ite (fun _ => cb = v) (fun _ _ => Iff.rfl) h h'
  have noise : BandPart fun s => (need s.noisePcmFlag .noisePcmFlag s).andThen fun first s =>
      if first then bandNoisePcm s else bandNoiseDpcm s :=
    (BandPart.need State.noisePcmFlag (fun _ _ => rfl) _).andThen fun first =>
      .ite (fun _ => first = true) (fun _ _ => Iff.rfl) bandNoisePcm_bandPart <|
        baselineBand_bandPart (fun _ _ => rfl) _ useNoise_bandPart
  have position : BandPart bandPosition := baselineBand_bandPart (fun _ _ => rfl) _ usePosition_bandPart
  exact select _ (writeElement_bandPart 0) <| select _ position <| select _ position <| select _ noise <|
    select _ (.abort .invalidCodebook) <| baselineBand_bandPart (fun _ _ => rfl) _ useScale_bandPart

theorem advancePc_bandPart : BandPart advancePc :=
  (BandPart.need State.pc (fun _ _ => rfl) .pc).andThen fun p =>
    (BandPart.need State.maxSfb (fun _ _ => rfl) .maxSfb).andThen fun bands =>
      (BandPart.done ()).after (fun s => { s with pc := some (nextPtr bands.toNat p) }) (fun _ _ => rfl)
        fun _ => rfl

theorem loopTest_bandPart : BandPart loopTest :=
  (BandPart.need State.pc (fun _ _ => rfl) .pc).andThen fun p =>
    (BandPart.need State.numWindowGroups (fun _ _ => rfl) .numWindowGroups).andThen fun groups =>
      (BandPart.need State.maxSfb (fun _ _ => rfl) .maxSfb).andThen fun bands =>
        .ite (fun _ => p.g < groups.toNat) (fun _ _ => Iff.rfl)
          (.ite (fun _ => bands.toNat = 0) (fun _ _ => Iff.rfl)
            ((BandPart.done false).after (fun s => { s with pc := some ⟨groups.toNat, p.sfb⟩ })
              (fun _ _ => rfl) fun _ => rfl)
            (.done true))
          (.done false)

theorem bandLoop_bandPart (n : Nat) : BandPart (bandLoop n) := by
  induction n with
  | zero => exact .done ()
  | succ n ih =>
    exact loopTest_bandPart.andThen fun more =>
      .ite (fun _ => more = true) (fun _ _ => Iff.rfl)
        (bandStep_bandPart.andThen fun _ => advancePc_bandPart.andThen fun _ => ih) (.done ())

end Sys2Proof.Machine
end

/-! ## `CMD_DEC`, part by part (R101, R116, R118, R140, R155) -/

section
namespace Sys2Proof.Machine

open Sys2Proof.Claims

/-! ### The way out -/

/-- A marked `CMD_DEC` runs the `RELEASE` it owes (R155). -/
theorem reaches_leaveDec_marked {n : Nat} {s : State} (hm : s.marked = true) (hd : s.phase.inDec = true) :
    Reaches (n + 1) s s.leaveDec :=
  Reaches.step ((step_marked hm).trans (if_pos hd)) (Reaches.refl n _)

/-- R101: the micro-operation at `RELEASE`. -/
theorem reaches_leaveDec_release {n : Nat} {s : State} (hs : StandsAt .release s) :
    Reaches (n + 1) s s.leaveDec := by
  obtain ⟨hp, -, hm⟩ := standsAt_iff.1 hs
  have hfetch : fetchOp s = .done .release s := by
    simp only [fetchOp, hp, decode_sequenced, selected, SeqOp.instr]
  have hstep : step s = .next s.leaveDec := by
    rw [hs.step_eq nofun, microStep_of_fetchOp hfetch, releaseDisposesBothCursors s]
    exact (continueWith_unmarked (s := s.dispose) hm).trans
      (congrArg (fun m => Host.Outcome.next (Micro.state m)) (afterOp_release (s := s.dispose) hp))
  exact Reaches.step hstep (Reaches.refl n _)

/-! ### The carves and `FWD_INIT` -/

/-- A part of a `CMD_DEC` that is stopped inside the command is stopped by a mark. -/
def StopsMarked (s : State) : Prop := s.marked = true ∧ s.phase.inDec = true

/-- A part of the stepped command and the same part of the whole one leave the rest to be compared. -/
theorem reaches_part {n : Nat} {ph : Phase} {s : State} {op rest : State → Micro Unit}
    (hs : StandsAt ph s) (hph : ph ≠ .idle) (hop : microStep s = continueWith (op s).outcome)
    (hsteady : Steady StopsMarked s (op s))
    (hrest : ∀ t, op s = .done () t → StandsAt ph t →
      Reaches (n + 1) (afterOp t).state (rest t).state.leaveDec) :
    Reaches (n + 2) s ((op s).andThen fun _ => rest).state.leaveDec := by
  have hstep := (hs.step_eq hph).trans (hop.trans (continueWith_steady (standsAt_iff.1 hs).2.2
    (Micro.post_mono hsteady (fun _ _ h => h) fun _ h => h.1)))
  refine Reaches.step hstep ?_
  cases h : op s with
  | ended t =>
    rw [h] at hsteady
    exact reaches_leaveDec_marked hsteady.1 hsteady.2
  | done a t =>
    rw [h] at hsteady
    exact hrest t h (Eq.trans hsteady hs)

/-! ### A band -/

/-- R69, R118: the operation of a codebook value is the case of `BAND_STEP` for it. -/
theorem exec_codebookOp {s : State} {p : BandPtr} {cb : BitVec 4} {first : Bool}
    (hd : s.decState = some .normal) (hp : s.pc = some p)
    (hcb : cellRead p.g p.sfb s.mem.sfbCb = some cb) (hf : cb = 13#4 → s.noisePcmFlag = some first) :
    exec (codebookOp first cb) s = (bandStep s).outcome := by
  simp only [bandStep, readCodebook, need_written hd, need_written hp, need_written hcb,
    Micro.andThen_done, reduceCtorEq, if_false, codebookOp]
  split_ifs with h0 h15 h14 h13 hfirst h12
  · rfl
  · rfl
  · rfl
  · rw [need_written (hf h13), Micro.andThen_done, hfirst]
    rfl
  · rw [need_written (hf h13), Micro.andThen_done, if_neg hfirst]
    rfl
  · rfl
  · rfl

/-- R118: the operation that the fetch selects at a band is the one that `BAND_STEP` runs, and where the
fetch faults `BAND_STEP` faults too. -/
theorem fetchBand_bandStep {s : State} (ha : s.aborted = false) :
    (fetchBand s).post (fun i t => t = s ∧ exec i s = (bandStep s).outcome)
      (fun t => t.marked = true ∧ bandStep s = .ended t) := by
  simp only [fetchBand, Micro.post_andThen, need_post]
  refine ⟨fun d hd => ?_, fun hn => ⟨rfl, by rw [bandStep, need_unwritten hn, Micro.andThen_ended]⟩⟩
  cases d with
  | concealed =>
    refine ⟨rfl, ?_⟩
    rw [bandStep, need_written hd, Micro.andThen_done, if_pos rfl]
    rfl
  | aborted c => simp [State.aborted, hd] at ha
  | normal =>
    simp only [readCodebook, Micro.post_andThen, need_post]
    refine ⟨fun p hp => ⟨fun cb hcb => ?_, fun hn => ?_⟩, fun hn => ?_⟩
    · split
      · next h13 =>
        simp only [Micro.post_andThen, need_post, decode_normal, selected, Micro.post_done]
        exact ⟨fun first hf => ⟨trivial, exec_codebookOp hd hp hcb fun _ => hf⟩,
          fun hn => ⟨rfl, by simp [bandStep, readCodebook, hd, hp, hcb, h13, hn]⟩⟩
      · next hne =>
        simp only [decode_normal, selected]
        exact ⟨rfl, exec_codebookOp hd hp hcb fun h => absurd h hne⟩
    · exact ⟨rfl, by simp [bandStep, readCodebook, hd, hp, hn]⟩
    · exact ⟨rfl, by simp [bandStep, hd, hn]⟩

/-- R118: the micro-operation at a band runs `BAND_STEP`. -/
theorem microStep_band {s : State} (hp : s.phase = .decode .band) (ha : s.aborted = false) :
    microStep s = continueWith (bandStep s).outcome := by
  have hfetch : fetchOp s = fetchBand s := by simp only [fetchOp, hp]
  have hband := fetchBand_bandStep ha
  cases hf : fetchBand s with
  | done i t =>
    rw [hf] at hband hfetch
    obtain ⟨rfl, hi⟩ := hband
    rw [microStep_of_fetchOp hfetch, hi]
  | ended t =>
    rw [hf] at hband hfetch
    rw [microStep_of_fetchOp_ended hfetch, hband.2, Micro.outcome_eq, Micro.state_ended, continueWith,
      if_pos hband.1]

/-- A decoder operation leaves the phase, and the host where it waits (R37). -/
theorem DecoderEdits.phase_host {s t : State} (h : DecoderEdits s t) :
    t.phase = s.phase ∧ t.host = s.host := by
  have hp := h.headerPart_eq
  have hh := h.command.sameInputPart
  simp only [headerPart, SameInputPart, inputPart, Prod.mk.injEq] at hp hh
  exact ⟨hp.2.2.2.2.2.2.2.2.1, hh.2.2.2.2.2.2.2.1⟩

/-- A band that is stopped leaves the command, through an abort or a mark (R152, R155). -/
theorem reaches_leaveDec_stopped {n : Nat} {s t : State} (hstep : step s = continueWith (.next t))
    (hp : t.phase = .decode .band) (hh : t.host = []) (hstop : BandStops t) :
    Reaches (n + 2) s t.leaveDec := by
  cases hm : t.marked with
  | true =>
    rw [continueWith, if_pos hm] at hstep
    exact Reaches.step hstep (reaches_leaveDec_marked hm (by rw [hp]; rfl))
  | false =>
    have ha : t.aborted = true := hstop.resolve_left (Bool.eq_false_iff.1 hm)
    rw [continueWith_unmarked hm, afterOp_decodeBand hp, afterBand, if_pos ha] at hstep
    exact Reaches.step hstep (reaches_leaveDec_release (s := { t with phase := .release })
      (standsAt_iff.2 ⟨rfl, hh, hm⟩))

/-! ### The loop -/

/-- The end of a run (R129). -/
def finishRun (s : State) : Micro Unit := .done () { s with result := some codeOk }

/-- A loop test that finds no band ends the run, and `RELEASE` is next (R116, R129). -/
theorem reaches_endOfRun (n m : Nat) {ph : Phase} {s t : State} (htest : loopTest s = .done false t)
    (ht : StandsAt ph t) : Reaches (n + 1) (toBandOrEnd s).state
      ((bandLoop (m + 1) s).andThen fun _ => finishRun).state.leaveDec := by
  rw [toBandOrEnd, bandLoop, htest]
  exact reaches_leaveDec_release (s := { t with result := some codeOk, phase := .release })
    (ht.move .release)

/-- A band of the stepped run and the same band of the whole one leave the rest to be compared. -/
theorem reaches_band {n : Nat} {s : State} {p : BandPtr} {bands : BitVec 6}
    {rest : State → Micro Unit} (hs : StandsAt (.decode .band) s) (hpc : s.pc = some p)
    (hb : s.maxSfb = some bands) (ha : s.aborted = false)
    (hrest : ∀ t, StandsAt (.decode .band) t → t.pc = some (nextPtr bands.toNat p) →
      t.numWindowGroups = s.numWindowGroups → t.maxSfb = s.maxSfb → t.aborted = false →
      Reaches (n + 1) (toBandOrEnd t).state (rest t).state.leaveDec) :
    Reaches (n + 2) s
      ((bandStep s).andThen fun _ s => (advancePc s).andThen fun _ => rest).state.leaveDec := by
  obtain ⟨hp, hh, hm⟩ := standsAt_iff.1 hs
  have hstep := (hs.step_eq nofun).trans (microStep_band hp ha)
  have hport := (BandEdits.decoder (Micro.within_state (bandStep_edits s))).phase_host
  have hsteady := bandStep_bandPart.steady s
  have hends := bandStep_bandEnds s
  cases hband : bandStep s with
  | ended t =>
    rw [hband] at hport hsteady hstep
    exact reaches_leaveDec_stopped hstep (hport.1.trans hp) (hport.2.trans hh) hsteady
  | done a t =>
    rw [hband] at hsteady hends hstep
    have ht : StandsAt (.decode .band) t := Eq.trans hsteady hs
    obtain ⟨q, v, -, hrun, hd, -⟩ := hends
    obtain ⟨hpc', hg', hb', -, -⟩ := runPart_eq_iff.1 hrun
    have ha' : t.aborted = false := by
      unfold State.aborted at ha ⊢
      rcases hd with hd | hd <;> rw [hd]
      exact ha
    obtain ⟨hp', -, hm'⟩ := standsAt_iff.1 ht
    have hadvance := advancePc_done (hpc'.trans hpc) (hb'.trans hb)
    have hafter : afterOp t = toBandOrEnd { t with pc := some (nextPtr bands.toNat p) } := by
      rw [afterOp_decodeBand hp', afterBand, ha', if_neg Bool.false_ne_true, hadvance, Micro.andThen_done]
    rw [Micro.outcome_eq, Micro.state_done, continueWith_unmarked hm', hafter] at hstep
    rw [Micro.andThen_done, hadvance, Micro.andThen_done]
    exact Reaches.step hstep (hrest _ ht rfl hg' hb' ha')

section
variable {groups : BitVec 4} {bands : BitVec 6} {s : State} {p : BandPtr}

/-- The end of a run that has no band left, or none at all (R116). -/
theorem reaches_overRun (n m : Nat) (hs : StandsAt (.decode .band) s) (hpc : s.pc = some p)
    (hg : s.numWindowGroups = some groups) (hb : s.maxSfb = some bands)
    (hover : bands.toNat ≠ 0 → groups.toNat ≤ p.g) : Reaches (n + 1) (toBandOrEnd s).state
      ((bandLoop (m + 1) s).andThen fun _ => finishRun).state.leaveDec := by
  have htest := loopTest_eq hpc hg hb
  split_ifs at htest with hpg hbands
  · exact reaches_endOfRun n m htest hs
  · exact absurd (hover hbands) hpg.not_ge
  · exact reaches_endOfRun n m htest hs

/-- Steps from a loop test on, with at most `n` bands to come (R116, R182). -/
theorem reaches_bandLoop (n : Nat) (hs : StandsAt (.decode .band) s) (hpc : s.pc = some p)
    (hg : s.numWindowGroups = some groups) (hb : s.maxSfb = some bands) (hrow : InRow bands.toNat p)
    (ha : s.aborted = false) (hn : groups.toNat * bands.toNat ≤ bandIndex bands.toNat p + n) :
    Reaches (n + 1) (toBandOrEnd s).state
      ((bandLoop (n + 1) s).andThen fun _ => finishRun).state.leaveDec := by
  induction n generalizing s p with
  | zero => exact reaches_overRun 0 0 hs hpc hg hb (le_of_bandIndex hrow hn)
  | succ n ih =>
    by_cases hover : bands.toNat ≠ 0 → groups.toNat ≤ p.g
    · exact reaches_overRun _ _ hs hpc hg hb hover
    · push Not at hover
      obtain ⟨hbands, hpg⟩ := hover
      have hsfb : p.sfb < bands.toNat := hrow.elim id fun h => h ▸ Nat.pos_of_ne_zero hbands
      have htest := (loopTest_eq hpc hg hb).trans ((if_pos hpg).trans (if_neg hbands))
      rw [toBandOrEnd, bandLoop, htest]
      simp only [Micro.andThen_done, if_true, Micro.state_done, hs.stay, Micro.andThen_assoc]
      refine reaches_band hs hpc hb ha fun t ht hpc' hg' hb' ha' =>
        ih ht hpc' (hg'.trans hg) (hb'.trans hb) (inRow_nextPtr _ _) ha' ?_
      rw [bandIndex_nextPtr hsfb]
      omega

end

/-! ### The whole command -/

/-- The way out leaves the phase `IDLE`, whatever it was (R101). -/
theorem leaveDec_atPhase (ph : Phase) (m : Micro Unit) :
    ((m.atPhase ph).andThen fun _ => finishRun).state.leaveDec =
      (m.andThen fun _ => finishRun).state.leaveDec := by
  cases m <;> rfl

/-- `FWD_INIT` completes unmarked, or is stopped by a mark (R117). -/
theorem fwdInit_steady {s : State} (hd : s.phase.inDec = true) : Steady StopsMarked s (fwdInit s) := by
  have hport := (Micro.within_state (fwdInit_edits s)).phase_host
  have hends := fwdInit_ends s
  cases h : fwdInit s with
  | ended t =>
    rw [h] at hends hport
    exact ⟨hends.1, hport.1 ▸ hd⟩
  | done a t =>
    rw [h] at hends
    obtain ⟨groups, bands, gain, -, -, -, -, rfl⟩ := hends
    rfl

theorem stopsMarked_of_fault {s t : State} (hd : s.phase.inDec = true) (h : ∃ r, t = s.raiseFault r) :
    StopsMarked t := by
  obtain ⟨r, rfl⟩ := h
  exact ⟨marked_raiseFault s r, hd⟩

theorem carveSf_steady {s : State} (hd : s.phase.inDec = true) : Steady StopsMarked s (carveSf s) :=
  Micro.post_mono (carveSf_ends s) (fun _ _ ⟨_, _, ht, _⟩ => ht ▸ rfl) fun _ => stopsMarked_of_fault hd

theorem carveEsc_steady {s : State} (hd : s.phase.inDec = true) : Steady StopsMarked s (carveEsc s) :=
  Micro.post_mono (carveEsc_ends s) (fun _ _ ⟨_, _, ht, _⟩ => ht ▸ rfl) fun _ => stopsMarked_of_fault hd

/-- No part of a `CMD_DEC` writes the inputs that the number of bands is read from (R37). -/
theorem loopBound_of_done {s t : State} {m : Micro Unit} (h : m.within CommandEdits s)
    (hm : m = .done () t) : loopBound t = loopBound s := by
  rw [hm] at h
  have hin := CommandEdits.sameInputPart h
  simp only [SameInputPart, inputPart, Prod.mk.injEq] at hin
  obtain ⟨-, -, -, hgroups, hbands, -⟩ := hin
  rw [loopBound, loopBound, hgroups, hbands]

/-- A run at its first band takes at most the steps of the loop tests of the whole one: one for each band,
and one for `RELEASE` (R182). -/
theorem reaches_firstBand {s : State} {groups : BitVec 4} {bands : BitVec 6}
    (hs : StandsAt (.decode .init) s) (hpc : s.pc = some ⟨0, 0⟩) (hg : s.numWindowGroups = some groups)
    (hb : s.maxSfb = some bands) (ha : s.aborted = false) : Reaches (loopBound s) (toBandOrEnd s).state
      ((bandLoop (loopBound s) s).andThen fun _ => finishRun).state.leaveDec := by
  have hbound : loopBound s = groups.toNat * bands.toNat + 1 := by
    simp only [loopBound, hg, hb, Option.getD_some]
  have hloop := reaches_bandLoop (s := { s with phase := .decode .band }) (groups.toNat * bands.toNat)
    (hs.move _) hpc hg hb (.inr rfl) ha (Nat.le_add_left _ _)
  rw [(bandLoop_bandPart _).atPhase, leaveDec_atPhase,
    toBandOrEnd_first (s := { s with phase := .decode .band }) hpc hg hb] at hloop
  rwa [hbound, toBandOrEnd_first hpc hg hb]

/-- R117: the micro-operation of `FWD_INIT`, and then the run. -/
theorem reaches_fwdDecode {s : State} (hs : StandsAt (.decode .init) s) :
    Reaches (loopBound s + 1) s (fwdDecode s).state.leaveDec := by
  obtain ⟨hp, -, -⟩ := standsAt_iff.1 hs
  have hfetch : fetchOp s = .done .fwdInit s := by
    simp only [fetchOp, hp, decode_sequenced, selected, SeqOp.instr]
  refine reaches_part hs nofun (microStep_of_fetchOp hfetch) (fwdInit_steady (by rw [hp]; rfl))
    fun t hinit ht => ?_
  have hends := fwdInit_ends s
  rw [hinit] at hends
  obtain ⟨groups, bands, gain, hg, hb, -, -, rfl⟩ := hends
  rw [afterOp_decodeInit (standsAt_iff.1 ht).1]
  exact reaches_firstBand ht rfl hg hb rfl

/-- Settles O58: both carves, `FWD_INIT`, the bands and `RELEASE`, each in the steps and in the whole
command; a part that is stopped goes to the way out in both. -/
theorem steppedCmdDecIsAtomic : Obligations.SteppedCmdDecIsAtomic := by
  intro s hp hm hh hd
  have hs : StandsAt .idle s := standsAt_iff.2 ⟨hp, hh, hm⟩
  rw [exec_cmdDec_accepted hp hd, (beginCommand_cmdDec hp).trans (if_pos hd)]
  change Reaches (loopBound s + 3) _ _
  refine reaches_part (hs.move _) nofun (microStep_of_fetchOp (i := .carveSf) rfl) (carveSf_steady rfl)
    fun t hsf ht => ?_
  rw [afterOp_carveSf (standsAt_iff.1 ht).1, Micro.state_done]
  refine reaches_part (ht.move _) nofun (microStep_of_fetchOp (i := .carveEsc) rfl) (carveEsc_steady rfl)
    fun u hesc hu => ?_
  rw [afterOp_carveEsc (standsAt_iff.1 hu).1, Micro.state_done]
  have ht' := loopBound_of_done (carveSf_edits _) hsf
  have hu' := loopBound_of_done (carveEsc_edits _) hesc
  have hbound : loopBound u = loopBound s := hu'.trans ht'
  exact hbound ▸ reaches_fwdDecode (hu.move (.decode .init))

end Sys2Proof.Machine
end

/-! ## A delta whose bits run short (R112, R155, R157) -/

section
namespace Sys2Proof.Machine

open Sys2Proof.Claims

/-- `t <- HUFF_SF` ends with the mark of the lookup that ran short, before it writes the delta register;
what the lookups wrote lies inside `HuffFrame` (R37, R112). -/
theorem takeDelta_of_deltaShort {s : State} {x : SubId} (hwf : s.cfg.wf = true)
    (hp : s.cfg.overrunPolicy = .fault) (h : DeltaShort s x) :
    ∃ s₁, HuffFrame s s₁ ∧ takeDelta s = .ended (s₁.raiseFault (.cursorOverrun x.cursorId)) := by
  obtain ⟨t, hended, hfault, -⟩ := huffSf_of_deltaShort hwf hp h
  have hframe := huffSf_frame s
  rw [hended] at hframe
  obtain ⟨s₁, y, hs, rfl⟩ := hframe
  refine ⟨s₁, hs, ?_⟩
  rw [takeDelta, hended, Micro.andThen_ended, ← Option.some.inj hfault]

/-- Nothing of a band runs after its delta was ended (R10). -/
theorem baselineBand_ended {s t : State} {baseline : State → Option Int} {name : RegName}
    {use : Int → State → Micro Unit} (h : takeDelta s = .ended t) :
    baselineBand baseline name use s = .ended t := by
  rw [baselineBand, h, Micro.andThen_ended]

/-- Settles O34: the delta is the first thing that each of the four operations takes, and lookups write
nothing of the band. -/
theorem walkFaultEndsBand : Obligations.WalkFaultEndsBand := by
  intro s cb i x hi hwf hp hshort
  obtain ⟨s₁, hframe, htake⟩ := takeDelta_of_deltaShort hwf hp hshort
  have hexec : exec i s = .next (s₁.raiseFault (.cursorOverrun x.cursorId)) := by
    rcases hi with rfl | rfl | rfl | rfl <;> exact congrArg Micro.outcome (baselineBand_ended htake)
  obtain ⟨a, b, w, v, d, rfl, -, -⟩ := hframe
  exact ⟨_, hexec, rfl, rfl, rfl, rfl, rfl, rfl, rfl, rfl, rfl⟩

end Sys2Proof.Machine
end
